-- ==== Sys2Proof/Word.lean ====
section
/-! DEFINITION. The value types of spec/00_scope.md R7: cells, words, indices, bit strings. -/

namespace Sys2Proof

/-- `Byte` of R7: one 8-bit cell of a buffer, one character or one Alphabet symbol. -/
abbrev Byte := BitVec 8

/-- `Word` of R7: the 32 bits of one host access. -/
abbrev Word := BitVec 32

/-- `Idx` of R7: the 6-bit index of a symbol. Its addition and subtraction discard the carry or
borrow, which is the arithmetic modulo 64 of R9. -/
abbrev Idx := BitVec 6

/-- `BitString` of R7: the first bit of the stream is the head of the list. -/
abbrev BitString := List Bool

/-- The contents of a buffer: a finite sequence of cells, cell 0 first (10_state.md R30). -/
abbrev Cells := List Byte

end Sys2Proof
end

