-- ==== Sys2Proof/Config.lean ====
section
/-! DEFINITION. The platform parameters of spec/00_scope.md R5 and their default column. -/

namespace Sys2Proof

/-- The parameters of R5, sampled at a reset (70_reset_and_hazards.md R190) and constant until the
next one. -/
structure Params where
  /-- `CFG_SYMS`: the symbols supplied for the Alphabet, in index order, of any length. -/
  cfgSyms : Cells
  /-- `CFG_PAD`: the padding marker supplied. -/
  cfgPad : Byte
  /-- `CAP_M`: capacity of buffer M in cells. -/
  capM : Nat
  /-- `CAP_K`: capacity of buffer K in cells. -/
  capK : Nat
  /-- `CAP_Q`: capacity of buffer Q in cells. -/
  capQ : Nat
  deriving DecidableEq, Repr

/-- The largest capacity R5 allows, 2^32 − 1. -/
def maxCapacity : Nat := 4294967295

/-- The codes `first`, `first + 1`, ..., `count` of them. -/
def codesFrom (first count : Nat) : Cells :=
  (List.range count).map fun i => BitVec.ofNat 8 (first + i)

/-- The default of `CFG_SYMS` in R5: 0x41..0x5A, 0x61..0x7A, 0x30..0x39, 0x2B, 0x2F. -/
def defaultSyms : Cells :=
  codesFrom 0x41 26 ++ codesFrom 0x61 26 ++ codesFrom 0x30 10 ++ [0x2B#8, 0x2F#8]

/-- The parameters `State.reset` samples: the default column of R5 for `CFG_SYMS` and `CFG_PAD`;
for the capacities, whose default R5 calls unbounded, the largest value R5 allows.
DESIGN CHOICE, unsafe for a claim about the reset state only (assumption log 5). -/
def Params.default : Params where
  cfgSyms := defaultSyms
  cfgPad := 0x3D#8
  capM := maxCapacity
  capK := maxCapacity
  capQ := maxCapacity

end Sys2Proof
end

