-- ==== Sys2Proof/Syntax.lean ====
section
/-! DEFINITION. The 21 commands of spec/30_encoding.md R73 and R74, one constructor per row of
spec/opcode_table.json. No command word carries an operand (R72), so no constructor has a field. -/

namespace Sys2Proof

/-- A command of the block. -/
inductive Instr where
  /-- `CLR` 0x01, 43_buffer_control.md R160. -/
  | clr
  /-- `CLRM` 0x02, R161. -/
  | clrm
  /-- `CLRK` 0x03, R162. -/
  | clrk
  /-- `QTOM` 0x04, R163. -/
  | qtom
  /-- `QTOK` 0x05, R164. -/
  | qtok
  /-- `T2B` 0x10, 40_bit_codec.md R110. -/
  | t2b
  /-- `B2T` 0x11, R111. -/
  | b2t
  /-- `B2E` 0x12, R112. -/
  | b2e
  /-- `E2B` 0x13, R113. -/
  | e2b
  /-- `STRIP` 0x14, R114. -/
  | strip
  /-- `PAD4` 0x15, R115. -/
  | pad4
  /-- `ENC` 0x16, R116. -/
  | enc
  /-- `DEC` 0x17, R117. -/
  | dec
  /-- `ROTS` 0x20, 41_rotation.md R133. -/
  | rots
  /-- `ENCROT` 0x21, R134. -/
  | encrot
  /-- `DECROT` 0x22, R135. -/
  | decrot
  /-- `REPK` 0x30, 42_additive.md R146. -/
  | repk
  /-- `ADDS` 0x31, R147. -/
  | adds
  /-- `SUBS` 0x32, R148. -/
  | subs
  /-- `ENCADD` 0x33, R149. -/
  | encadd
  /-- `DECADD` 0x34, R150. -/
  | decadd
  deriving DecidableEq, Repr

end Sys2Proof
end

