-- ==== Sys2Proof/WellFormed.lean ====
section
/-! DEFINITION. What the spec requires of a command, a command word and the platform parameters. -/

namespace Sys2Proof

/-- A command has no operand field that could be out of range (30_encoding.md R72), so every
command is well formed. -/
def Instr.wf (_ : Instr) : Bool := true

/-- The 21 legal opcodes, as the last sentence of 30_encoding.md R74 lists them. -/
def legalOpcodes : List (BitVec 8) :=
  [0x01, 0x02, 0x03, 0x04, 0x05, 0x10, 0x11, 0x12, 0x13, 0x14, 0x15, 0x16, 0x17,
   0x20, 0x21, 0x22, 0x30, 0x31, 0x32, 0x33, 0x34]

/-- A command word is legal when its bits 31:8 are zero and its bits 7:0 are one of the 21 legal
opcodes (30_encoding.md R70, R75). -/
def wordLegal (w : Word) : Bool :=
  w.extractLsb' 8 24 == 0#24 && legalOpcodes.contains (w.extractLsb' 0 8)

/-- The constraint of 00_scope.md R5 on one capacity: 1 ≤ c ≤ 2^32 − 1. -/
def capacityWf (c : Nat) : Bool := decide (1 ≤ c) && decide (c ≤ maxCapacity)

/-- The constraints of 00_scope.md R5 on the platform parameters. R5 puts none on `CFG_SYMS`, and
the one on `CFG_PAD` is checked by the configuration load itself (70_reset_and_hazards.md R192). -/
def Params.wf (p : Params) : Bool := capacityWf p.capM && capacityWf p.capK && capacityWf p.capQ

end Sys2Proof
end

