-- ==== Sys2Proof/Decode.lean ====
section
/-! DEFINITION. Decoding a command word (spec/30_encoding.md R70 to R77), total on every 32-bit
word and rejecting by name, and the encoder from the same opcode map. -/

namespace Sys2Proof

/-- Why a command word is illegal (30_encoding.md R75). The machine reports both as `ILLCMD`. -/
inductive DecodeReject where
  /-- Bits 31:8, the field `zero`, are not 0. -/
  | zeroField (bits : BitVec 24)
  /-- Bits 7:0 are not one of the 21 legal opcodes. -/
  | noSuchOpcode (op : BitVec 8)
  deriving DecidableEq, Repr

/-- The opcode map of 30_encoding.md R74: the high nibble is the family, the low nibble the
member. -/
def opcodeOf (op : BitVec 8) : Option Instr :=
  match op.toNat with
  | 0x01 => some .clr
  | 0x02 => some .clrm
  | 0x03 => some .clrk
  | 0x04 => some .qtom
  | 0x05 => some .qtok
  | 0x10 => some .t2b
  | 0x11 => some .b2t
  | 0x12 => some .b2e
  | 0x13 => some .e2b
  | 0x14 => some .strip
  | 0x15 => some .pad4
  | 0x16 => some .enc
  | 0x17 => some .dec
  | 0x20 => some .rots
  | 0x21 => some .encrot
  | 0x22 => some .decrot
  | 0x30 => some .repk
  | 0x31 => some .adds
  | 0x32 => some .subs
  | 0x33 => some .encadd
  | 0x34 => some .decadd
  | _ => none

/-- The decoder of R70: check `w[31:8] = 0`, then look `w[7:0]` up in the opcode map. -/
def decode (w : Word) : Except DecodeReject Instr :=
  if w.extractLsb' 8 24 = 0#24 then
    match opcodeOf (w.extractLsb' 0 8) with
    | some i => .ok i
    | none => .error (.noSuchOpcode (w.extractLsb' 0 8))
  else .error (.zeroField (w.extractLsb' 8 24))

/-- The word of a command, from the "opcode" column of 30_encoding.md R73; by R71 it is
numerically equal to the opcode. -/
def encode : Instr → Word
  | .clr => 0x01#32
  | .clrm => 0x02#32
  | .clrk => 0x03#32
  | .qtom => 0x04#32
  | .qtok => 0x05#32
  | .t2b => 0x10#32
  | .b2t => 0x11#32
  | .b2e => 0x12#32
  | .e2b => 0x13#32
  | .strip => 0x14#32
  | .pad4 => 0x15#32
  | .enc => 0x16#32
  | .dec => 0x17#32
  | .rots => 0x20#32
  | .encrot => 0x21#32
  | .decrot => 0x22#32
  | .repk => 0x30#32
  | .adds => 0x31#32
  | .subs => 0x32#32
  | .encadd => 0x33#32
  | .decadd => 0x34#32

/-- The instruction the decoder reads from the bits `w` of an opcode-table row of `nbits` bits.
A command is one whole 32-bit word written to `CMD` (R70); it has no bytes in a memory and so no
byte order (20_memory.md R57). Bits above `nbits` are 0; a row of more than 32 bits would be no
command of this block (assumption log 10). -/
def decodeTableWord (nbits w : Nat) : Option Instr :=
  if nbits ≤ 32 ∧ w < 2 ^ nbits then
    match decode (BitVec.ofNat 32 w) with
    | .ok i => some i
    | .error _ => none
  else none

end Sys2Proof
end

