-- ==== Sys2Proof/Machine/Operands.lean ====
section
/-! DEFINITION. How operands are read: bits of characters and groups (spec/00_scope.md R8), symbols
and indices (R10), bit cells (10_state.md R37), the errors a function can raise (R11), and the one
scan over a buffer that every looking-up function shares. -/

namespace Sys2Proof.Machine

/-- What the evaluation of a function can raise (00_scope.md R11): the error and the index it
records. -/
inductive FnError where
  /-- `INVSYM(i)`, from K when `inK`, else from M (60_exceptions.md R172, R177). -/
  | invsym (i : Nat) (inK : Bool)
  /-- `INVKEY` (R173); it records no index. -/
  | invkey
  /-- `BADBIT(i)`, always from M (R174). -/
  | badbit (i : Nat)
  deriving DecidableEq, Repr

/-- `bits8(v)` of R8: the eight bits of a character, most significant first. -/
def bits8 (v : Byte) : BitString :=
  [v.getLsbD 7, v.getLsbD 6, v.getLsbD 5, v.getLsbD 4,
   v.getLsbD 3, v.getLsbD 2, v.getLsbD 1, v.getLsbD 0]

/-- `bits6(g)` of R8: the six bits of an index, most significant first. -/
def bits6 (g : Idx) : BitString :=
  [g.getLsbD 5, g.getLsbD 4, g.getLsbD 3, g.getLsbD 2, g.getLsbD 1, g.getLsbD 0]

/-- `val(B)` of R8: the number a bit string writes, first bit most significant. -/
def bitsVal : BitString → Nat
  | [] => 0
  | b :: bs => b.toNat * 2 ^ bs.length + bitsVal bs

/-- `S[i:j]` of R7. -/
def slice {α : Type} (S : List α) (i j : Nat) : List α := (S.drop i).take (j - i)

/-- `sym(g)` of R10. An accepted Alphabet has 64 symbols, so the default is never reached in a
state a run reaches (assumption log 9). -/
def sym (A : Cells) (g : Idx) : Byte := A.getD g.toNat 0#8

/-- `idx(c)` of R10: the index of a symbol, `none` for a cell outside the Alphabet. -/
def idx (A : Cells) (c : Byte) : Option Idx :=
  if c ∈ A then some (BitVec.ofNat 6 (A.idxOf c)) else none

/-- A lookup at cell `i` of K (`inK`) or M: the index of the symbol, or `INVSYM(i)` (R10, R11). -/
def lookup (A : Cells) (inK : Bool) (i : Nat) (c : Byte) : Except FnError Idx :=
  match idx A c with
  | some g => .ok g
  | none => .error (.invsym i inK)

/-- Visit the cells in increasing index order from index `i` on; the first `raise` reached is the
one that takes effect (R11). -/
def scan {β : Type} (f : Nat → Byte → Except FnError β) : Nat → Cells → Except FnError (List β)
  | _, [] => .ok []
  | i, c :: cs =>
    match f i c with
    | .error e => .error e
    | .ok b =>
      match scan f (i + 1) cs with
      | .error e => .error e
      | .ok bs => .ok (b :: bs)

/-- `toCells(B)` of 10_state.md R37: bit 0 is the cell 0x30, bit 1 the cell 0x31. -/
def toCells (B : BitString) : Cells := B.map fun b => if b then 0x31#8 else 0x30#8

/-- One cell of a bit string held in a buffer (10_state.md R37). -/
def bitOfCell (i : Nat) (c : Byte) : Except FnError Bool :=
  if c = 0x30#8 then .ok false
  else if c = 0x31#8 then .ok true
  else .error (.badbit i)

/-- `fromCells(S)` of 10_state.md R37: every cell is checked, in index order. -/
def fromCells (S : Cells) : Except FnError BitString := scan bitOfCell 0 S

end Sys2Proof.Machine
end

