-- ==== Sys2Proof/Machine/ConfigLoad.lean ====
section
/-! DEFINITION. The configuration load at reset (spec/70_reset_and_hazards.md R191, R192). -/

namespace Sys2Proof.Machine

/-- Step 1 of the load, R191: when exactly 62 distinct symbols are supplied and neither 0x2B (`+`)
nor 0x2F (`/`) is among them, the two are appended in that order; else the sequence is left as it
is. -/
def repairSyms (syms : Cells) : Cells :=
  if syms.length = 62 ∧ syms.Nodup ∧ 0x2B#8 ∉ syms ∧ 0x2F#8 ∉ syms then
    syms ++ [0x2B#8, 0x2F#8]
  else syms

/-- The test of step 2, R192: exactly 64 elements, pairwise distinct, the marker not among them. -/
def configAccepted (syms : Cells) (pad : Byte) : Bool :=
  decide (syms.length = 64) && decide syms.Nodup && decide (pad ∉ syms)

/-- The whole load, R191 then R192: the accepted `(ALPHA, PAD)`, or `none` for a
ConfigurationError. -/
def loadConfig (p : Params) : Option (Cells × Byte) :=
  if configAccepted (repairSyms p.cfgSyms) p.cfgPad then
    some (repairSyms p.cfgSyms, p.cfgPad)
  else none

end Sys2Proof.Machine
end

