-- ==== Sys2Proof/Machine/Flags.lean ====
section
/-! DEFINITION. The error codes (spec/60_exceptions.md R170) and the STATUS word (10_state.md R25). -/

namespace Sys2Proof.Machine

/-- The values of `STATUS.ERR` by name (60_exceptions.md R170). Codes 8 to 15 are never produced. -/
inductive ErrCode where
  /-- The command succeeded. -/
  | none
  /-- ConfigurationError, raised by the configuration load at reset only (R171). -/
  | config
  /-- InvalidSymbolError: a cell outside the Alphabet met at a lookup (R172). -/
  | invsym
  /-- InvalidKeyError: the key is empty (R173). -/
  | invkey
  /-- A cell that should hold a bit holds neither 0x30 nor 0x31 (R174). -/
  | badbit
  /-- The result does not fit where it is to go (R175). -/
  | capacity
  /-- The command word is illegal (R179). -/
  | illcmd
  /-- A buffer the command reads has its push-error flag set (R178). -/
  | operand
  deriving DecidableEq, Repr

/-- The 4-bit code of an error (60_exceptions.md R170). -/
def errNumber : ErrCode → BitVec 4
  | .none => 0#4
  | .config => 1#4
  | .invsym => 2#4
  | .invkey => 3#4
  | .badbit => 4#4
  | .capacity => 5#4
  | .illcmd => 6#4
  | .operand => 7#4

/-- The STATUS word of 10_state.md R25: bit 0 `CFGOK`, bit 1 `MPERR`, bit 2 `KPERR`, bit 3 `ERRK`,
bits 7:4 `ERR`, bits 31:8 zero. -/
def statusWord (cfgok mperr kperr errk : Bool) (err : BitVec 4) : Word :=
  0#24 ++ err ++ BitVec.ofBool errk ++ BitVec.ofBool kperr ++ BitVec.ofBool mperr
    ++ BitVec.ofBool cfgok

end Sys2Proof.Machine
end

