-- ==== Sys2Proof/Machine/State.lean ====
section
/-! DEFINITION. The state of the block (spec/10_state.md), the events that reach its port, the
reasons a step can stop, and the state after a reset (10_state.md R39). -/

namespace Sys2Proof.Machine

/-- What can reach the block from outside: the two host transactions of 20_memory.md R50, and the
reset event of 70_reset_and_hazards.md R190 with the parameters the platform presents at it. -/
inductive Event where
  /-- `RegRead(r)`. -/
  | read (r : Fin 16)
  /-- `RegWrite(r, v)`. -/
  | write (r : Fin 16) (v : Word)
  /-- The reset event, sampling the parameters of 00_scope.md R5. -/
  | reset (p : Params)
  deriving DecidableEq, Repr

/-- The state: the tuple at the head of 10_state.md, the parameters sampled at the last reset, and
two fields of the model's own (`inbox`, `reply`) that stand for the host's side of the port. -/
structure State where
  /-- `CFGOK` (R22): false is the FAILED state. -/
  cfgok : Bool
  /-- `ALPHA` (R20), index 0 first. -/
  alpha : Cells
  /-- `PAD` (R21). -/
  pad : Byte
  /-- Buffer `M` (R30). -/
  m : Cells
  /-- Buffer `K` (R30). -/
  k : Cells
  /-- Buffer `Q` (R30). -/
  q : Cells
  /-- `NARG`, register 3 (R28). -/
  narg : Word
  /-- `QPTR`, register 9 (R32). -/
  qptr : Word
  /-- `ERRIDX`, register 2 (R26). -/
  erridx : Word
  /-- `ERR`, STATUS bits 7:4 (R25, R35). -/
  err : BitVec 4
  /-- `ERRK`, STATUS bit 3 (R25, R35). -/
  errk : Bool
  /-- `MPERR`, STATUS bit 1 (R34). -/
  mperr : Bool
  /-- `KPERR`, STATUS bit 2 (R34). -/
  kperr : Bool
  /-- The parameters sampled at the last reset (00_scope.md R5); only a reset writes them. -/
  params : Params
  /-- The model's own: the events issued and not yet performed, in the total order of
  20_memory.md R61. DESIGN CHOICE (assumption log 1). -/
  inbox : List Event
  /-- The model's own: the word the port returned in the last transaction, `none` when it was a
  write or a reset. DESIGN CHOICE (assumption log 3). -/
  reply : Option Word
  deriving DecidableEq, Repr

/-- The reasons the machine stops. No command raises one: every error of the block is a next
state. -/
inductive Fault where
  /-- A reset event presents a capacity outside 1 to 2^32 − 1, which 00_scope.md R5 excludes.
  Raised by the reset event only. Safe: the spec gives such a block no behaviour (assumption
  log 7). -/
  | capacityOutOfRange
  deriving DecidableEq, Repr

/-- The reasons a step has no meaning. -/
inductive Refusal where
  /-- The command has no meaning in the model yet. Raised by `exec` only; no command of this model
  is left without one. Safe: the model declines to step. -/
  | notModelled (mnemonic : String)
  deriving DecidableEq, Repr

/-- The state after a reset that samples `p` (10_state.md R39, 70_reset_and_hazards.md R190): the
configuration as the load decides, every buffer empty, every register and flag 0, `ERR` the code of
`CONFIG` when the load failed. `ALPHA` and `PAD` are not meaningful in the FAILED state; the model
puts `[]` and 0 there. DESIGN CHOICE (assumption log 6). -/
def State.resetWith (p : Params) : State where
  cfgok := (loadConfig p).isSome
  alpha := ((loadConfig p).map Prod.fst).getD []
  pad := ((loadConfig p).map Prod.snd).getD 0#8
  m := []
  k := []
  q := []
  narg := 0#32
  qptr := 0#32
  erridx := 0#32
  err := if (loadConfig p).isSome then errNumber .none else errNumber .config
  errk := false
  mperr := false
  kperr := false
  params := p
  inbox := []
  reply := none

/-- The machine right after a reset with the default parameters of 00_scope.md R5
(assumption log 5), with no transaction issued yet. -/
def State.reset : State := State.resetWith Params.default

end Sys2Proof.Machine
end

