-- ==== Sys2Proof/Machine/Ops.lean ====
section
/-! DEFINITION. The named operations on the state that commands and register accesses share: the
error registers, taking an error (spec/30_encoding.md R78 `fail`, 60_exceptions.md R176), the
execution of a data command (R78), pushes (10_state.md R31), buffer loads (43_buffer_control.md). -/

namespace Sys2Proof.Machine

/-- With `CFGOK = 0` no write has any effect (20_memory.md R52, 70_reset_and_hazards.md R193). -/
def onConfigured (s t : State) : State := if s.cfgok then t else s

/-- Write the three error registers: `ERR`, `ERRIDX`, `ERRK` (10_state.md R35). -/
def State.report (s : State) (c : ErrCode) (i : Nat) (inK : Bool) : State :=
  { s with err := errNumber c, erridx := BitVec.ofNat 32 i, errk := inK }

/-- A command that succeeds clears the three error registers (10_state.md R35). -/
def State.succeed (s : State) : State := s.report .none 0 false

/-- Replace Q and set `QPTR` to 0, as every data command does (30_encoding.md R78). -/
def State.setResult (s : State) (r : Cells) : State := { s with q := r, qptr := 0#32 }

/-- TAKING AN ERROR in a data command: the procedure `fail(c, i, k)` of 30_encoding.md R78. Nothing
is saved and control goes nowhere (60_exceptions.md R176). -/
def State.fail (s : State) (c : ErrCode) (i : Nat) (inK : Bool) : State :=
  (s.setResult []).report c i inK

/-- Step 4 of R78: commit the result. -/
def State.commit (s : State) (r : Cells) : State := (s.setResult r).succeed

/-- The error code and recorded index of a raised error (R78 step 2, 60_exceptions.md R170);
`INVKEY` records index 0. -/
def State.failWith (s : State) : FnError → State
  | .invsym i inK => s.fail .invsym i inK
  | .invkey => s.fail .invkey 0 false
  | .badbit i => s.fail .badbit i false

/-- The buffers a data command reads: the "reads" column of 30_encoding.md R73. -/
structure Reads where
  /-- The command reads M. -/
  readsM : Bool
  /-- The command reads K. -/
  readsK : Bool
  deriving DecidableEq, Repr

/-- A data command that reads M only. -/
def readsMOnly : Reads := ⟨true, false⟩

/-- A data command that reads K only (`REPK`). -/
def readsKOnly : Reads := ⟨false, true⟩

/-- A data command that reads M and K. -/
def readsMK : Reads := ⟨true, true⟩

/-- Step 1 of R78: some buffer the command reads is flagged. -/
def operandFlagged (rd : Reads) (s : State) : Bool :=
  (rd.readsM && s.mperr) || (rd.readsK && s.kperr)

/-- HOW A DATA COMMAND EXECUTES: the four steps of 30_encoding.md R78, where `r` is the evaluation
of the command's function on the operands of `s`. -/
def dataCommand (rd : Reads) (r : Except FnError Cells) (s : State) : State :=
  onConfigured s <|
    if operandFlagged rd s then s.fail .operand 0 false
    else
      match r with
      | .error e => s.failWith e
      | .ok res =>
        if s.params.capQ < res.length then s.fail .capacity 0 false else s.commit res

/-- An illegal command word reports `ILLCMD` and changes nothing else (60_exceptions.md R179). -/
def illegalCommand (s : State) : State := onConfigured s (s.report .illcmd 0 false)

/-- `RegWrite(7, v)` of 10_state.md R31: append a cell to M, or set `MPERR`. -/
def pushM (v : Word) (s : State) : State :=
  onConfigured s <|
    if v.toNat ≤ 255 ∧ s.m.length < s.params.capM then { s with m := s.m ++ [v.setWidth 8] }
    else { s with mperr := true }

/-- `RegWrite(8, v)` of 10_state.md R31: append a cell to K, or set `KPERR`. -/
def pushK (v : Word) (s : State) : State :=
  onConfigured s <|
    if v.toNat ≤ 255 ∧ s.k.length < s.params.capK then { s with k := s.k ++ [v.setWidth 8] }
    else { s with kperr := true }

/-- Replace M and clear its push-error flag (10_state.md R34). -/
def State.loadM (s : State) (c : Cells) : State := { s with m := c, mperr := false }

/-- Replace K and clear its push-error flag (10_state.md R34). -/
def State.loadK (s : State) (c : Cells) : State := { s with k := c, kperr := false }

/-- `NARG <- v` (10_state.md R28). -/
def State.setNarg (s : State) (v : Word) : State := { s with narg := v }

/-- `QPTR <- v` (10_state.md R32). -/
def State.setQptr (s : State) (v : Word) : State := { s with qptr := v }

end Sys2Proof.Machine
end

