-- ==== Sys2Proof/Machine/BitCodec.lean ====
section
/-! DEFINITION. The Bit Codec family (spec/40_bit_codec.md): its functions and the commands T2B,
B2T, B2E, E2B, STRIP, PAD4, ENC, DEC. -/

namespace Sys2Proof.Machine

/-- `textToBits(T)`, R100. -/
def textToBits (T : Cells) : BitString := T.flatMap bits8

/-- `bitsToText(B)`, R101: the trailing partial byte is dropped unexamined. -/
def bitsToText (B : BitString) : Cells :=
  (List.range (B.length / 8)).map fun j => BitVec.ofNat 8 (bitsVal (slice B (8 * j) (8 * j + 8)))

/-- The number of 6-bit groups of a bit string of length `n`: `ceil(n / 6)` (R102). -/
def groupCount (n : Nat) : Nat := (n + 5) / 6

/-- `bitsToSyms(B)`, R102: the last group, if short, is filled on the right with zero bits. -/
def bitsToSyms (A : Cells) (B : BitString) : Cells :=
  let n := groupCount B.length
  let B' := B ++ List.replicate (6 * n - B.length) false
  (List.range n).map fun j => sym A (BitVec.ofNat 6 (bitsVal (slice B' (6 * j) (6 * j + 6))))

/-- `pad4(S)`, R103: `(4 − (|S| mod 4)) mod 4` markers follow. -/
def pad4 (P : Byte) (S : Cells) : Cells := S ++ List.replicate ((4 - S.length % 4) % 4) P

/-- `bitsToEncoded(B)`, R104. -/
def bitsToEncoded (A : Cells) (P : Byte) (B : BitString) : Cells := pad4 P (bitsToSyms A B)

/-- The length of the trailing run of markers, the `t` of R105. -/
def trailingRun (P : Byte) (E : Cells) : Nat := (E.reverse.takeWhile (· == P)).length

/-- `strip(E)`, R105: only the trailing run of markers is removed. -/
def strip (P : Byte) (E : Cells) : Cells := E.take (E.length - trailingRun P E)

/-- `encodedToBits(E)`, R106. -/
def encodedToBits (A : Cells) (P : Byte) (E : Cells) : Except FnError BitString :=
  match scan (lookup A false) 0 (strip P E) with
  | .error e => .error e
  | .ok gs => .ok (gs.flatMap bits6)

/-- `encode(T)`, R107. -/
def encodeText (A : Cells) (P : Byte) (T : Cells) : Cells := bitsToEncoded A P (textToBits T)

/-- `decode(E)`, R108. -/
def decodeText (A : Cells) (P : Byte) (E : Cells) : Except FnError Cells :=
  match encodedToBits A P E with
  | .error e => .error e
  | .ok B => .ok (bitsToText B)

/-- `T2B`, R110: `Q <- toCells(textToBits(M))`. -/
def execT2b (s : State) : Host.Outcome State Fault Refusal :=
  .next (dataCommand readsMOnly (.ok (toCells (textToBits s.m))) s)

/-- `B2T`, R111: `Q <- bitsToText(fromCells(M))`. -/
def execB2t (s : State) : Host.Outcome State Fault Refusal :=
  .next (dataCommand readsMOnly ((fromCells s.m).map bitsToText) s)

/-- `B2E`, R112: `Q <- bitsToEncoded(fromCells(M))`. -/
def execB2e (s : State) : Host.Outcome State Fault Refusal :=
  .next (dataCommand readsMOnly ((fromCells s.m).map (bitsToEncoded s.alpha s.pad)) s)

/-- `E2B`, R113: `Q <- toCells(encodedToBits(M))`. -/
def execE2b (s : State) : Host.Outcome State Fault Refusal :=
  .next (dataCommand readsMOnly ((encodedToBits s.alpha s.pad s.m).map toCells) s)

/-- `STRIP`, R114: `Q <- strip(M)`, without any lookup. -/
def execStrip (s : State) : Host.Outcome State Fault Refusal :=
  .next (dataCommand readsMOnly (.ok (strip s.pad s.m)) s)

/-- `PAD4`, R115: `Q <- pad4(M)`, without any lookup. -/
def execPad4 (s : State) : Host.Outcome State Fault Refusal :=
  .next (dataCommand readsMOnly (.ok (pad4 s.pad s.m)) s)

/-- `ENC`, R116: `Q <- encode(M)`. -/
def execEnc (s : State) : Host.Outcome State Fault Refusal :=
  .next (dataCommand readsMOnly (.ok (encodeText s.alpha s.pad s.m)) s)

/-- `DEC`, R117: `Q <- decode(M)`. -/
def execDec (s : State) : Host.Outcome State Fault Refusal :=
  .next (dataCommand readsMOnly (decodeText s.alpha s.pad s.m) s)

end Sys2Proof.Machine
end

