-- ==== Sys2Proof/Machine/Additive.lean ====
section
/-! DEFINITION. The Keyed Additive Cipher family (spec/42_additive.md): its functions and the
commands REPK, ADDS, SUBS, ENCADD, DECADD. -/

namespace Sys2Proof.Machine

/-- `repeat(S, n)`, R140: the empty key is an error for every `n`; else element `i` is
`S[i mod |S|]`. -/
def repeatKey (S : Cells) (n : Nat) : Except FnError Cells :=
  if S = [] then .error .invkey
  else .ok ((List.range n).map fun i => S.getD (i % S.length) 0#8)

/-- The loop body of R141 and R142 at cell `i` of the message: look the cell up, combine its index
with that of the key symbol `R[i] = S[i mod |S|]` (R140), map the result back. `ks` is the sequence
of the indices of the key symbols. -/
def combineCell (A : Cells) (op : Idx → Idx → Idx) (ks : List Idx) (i : Nat) (c : Byte) :
    Except FnError Byte :=
  match lookup A false i c with
  | .error e => .error e
  | .ok g => .ok (sym A (op g (ks.getD (i % ks.length) 0#6)))

/-- What `addsyms` and `subsyms` share: the empty key fails first, then the whole key is looked up,
then the message is combined cell by cell (R141, R142). -/
def combineSyms (A : Cells) (op : Idx → Idx → Idx) (P S : Cells) : Except FnError Cells :=
  if S = [] then .error .invkey
  else
    match scan (lookup A true) 0 S with
    | .error e => .error e
    | .ok ks => scan (combineCell A op ks) 0 P

/-- `addsyms(P, S)`, R141. -/
def addsyms (A : Cells) (P S : Cells) : Except FnError Cells := combineSyms A (fun a b => a + b) P S

/-- `subsyms(C, S)`, R142. -/
def subsyms (A : Cells) (C S : Cells) : Except FnError Cells := combineSyms A (fun a b => a - b) C S

/-- `encodeKey(Kt)`, R143. -/
def encodeKey (A : Cells) (P : Byte) (Kt : Cells) : Except FnError Cells :=
  if Kt = [] then .error .invkey else .ok (strip P (encodeText A P Kt))

/-- `encryptAdditive(T, Kt)`, R144: the empty-key check comes before the message is looked at. -/
def encryptAdditive (A : Cells) (P : Byte) (T Kt : Cells) : Except FnError Cells :=
  match encodeKey A P Kt with
  | .error e => .error e
  | .ok S => addsyms A (strip P (encodeText A P T)) S

/-- `decryptAdditive(C, Kt)`, R145: the ciphertext is consumed as it is, not stripped. -/
def decryptAdditive (A : Cells) (P : Byte) (C Kt : Cells) : Except FnError Cells :=
  match encodeKey A P Kt with
  | .error e => .error e
  | .ok S =>
    match subsyms A C S with
    | .error e => .error e
    | .ok D => decodeText A P D

/-- `REPK`, R146: `Q <- repeat(K, NARG)`. A result of more than `CAP_Q` cells fails with `CAPACITY`
whatever its cells are, so at most `CAP_Q + 1` of them are computed; `execRepk_eq` in
Sys2Proof/Laws/Additive.lean says that this is the command on `repeat(K, NARG)` itself
(assumption log 11). -/
def execRepk (s : State) : Host.Outcome State Fault Refusal :=
  .next (dataCommand readsKOnly (repeatKey s.k (min s.narg.toNat (s.params.capQ + 1))) s)

/-- `ADDS`, R147: `Q <- addsyms(M, K)`. -/
def execAdds (s : State) : Host.Outcome State Fault Refusal :=
  .next (dataCommand readsMK (addsyms s.alpha s.m s.k) s)

/-- `SUBS`, R148: `Q <- subsyms(M, K)`. -/
def execSubs (s : State) : Host.Outcome State Fault Refusal :=
  .next (dataCommand readsMK (subsyms s.alpha s.m s.k) s)

/-- `ENCADD`, R149: `Q <- encryptAdditive(M, K)`. -/
def execEncadd (s : State) : Host.Outcome State Fault Refusal :=
  .next (dataCommand readsMK (encryptAdditive s.alpha s.pad s.m s.k) s)

/-- `DECADD`, R150: `Q <- decryptAdditive(M, K)`. -/
def execDecadd (s : State) : Host.Outcome State Fault Refusal :=
  .next (dataCommand readsMK (decryptAdditive s.alpha s.pad s.m s.k) s)

end Sys2Proof.Machine
end

