-- ==== Sys2Proof/Machine/Buffer.lean ====
section
/-! DEFINITION. The buffer control family (spec/43_buffer_control.md): CLR, CLRM, CLRK, QTOM, QTOK.
They do not follow 30_encoding.md R78; each rule is complete in itself. -/

namespace Sys2Proof.Machine

/-- `CLR`, R160: everything the host can clear; the configuration is untouched. -/
def execClr (s : State) : Host.Outcome State Fault Refusal :=
  .next (onConfigured s ((((s.loadM []).loadK []).setNarg 0#32).commit []))

/-- `CLRM`, R161. -/
def execClrm (s : State) : Host.Outcome State Fault Refusal :=
  .next (onConfigured s (s.loadM []).succeed)

/-- `CLRK`, R162. -/
def execClrk (s : State) : Host.Outcome State Fault Refusal :=
  .next (onConfigured s (s.loadK []).succeed)

/-- `QTOM`, R163: a failing `QTOM` leaves M, `MPERR`, Q and `QPTR` as they were. -/
def execQtom (s : State) : Host.Outcome State Fault Refusal :=
  .next (onConfigured s
    (if s.params.capM < s.q.length then s.report .capacity 0 false else (s.loadM s.q).succeed))

/-- `QTOK`, R164: a failing `QTOK` leaves K, `KPERR`, Q and `QPTR` as they were. -/
def execQtok (s : State) : Host.Outcome State Fault Refusal :=
  .next (onConfigured s
    (if s.params.capK < s.q.length then s.report .capacity 0 false else (s.loadK s.q).succeed))

end Sys2Proof.Machine
end

