-- ==== Sys2Proof/Machine/Rotation.lean ====
section
/-! DEFINITION. The Rotation Cipher family (spec/41_rotation.md): its functions and the commands
ROTS, ENCROT, DECROT. -/

namespace Sys2Proof.Machine

/-- The rotation of one cell, the loop body of R130: a marker passes through wherever it stands, a
symbol has its index increased by 32 modulo 64, any other cell raises `INVSYM`. -/
def rotCell (A : Cells) (P : Byte) (i : Nat) (c : Byte) : Except FnError Byte :=
  if c = P then .ok P
  else
    match lookup A false i c with
    | .error e => .error e
    | .ok g => .ok (sym A (g + 32#6))

/-- `rot(E)`, R130. -/
def rot (A : Cells) (P : Byte) (E : Cells) : Except FnError Cells := scan (rotCell A P) 0 E

/-- `encryptRotation(T)`, R131: the rotation of the padded form. It raises nothing when the
Alphabet is an accepted one. -/
def encryptRotation (A : Cells) (P : Byte) (T : Cells) : Except FnError Cells :=
  rot A P (encodeText A P T)

/-- `decryptRotation(C)`, R132: `rot` over the whole of C first, then `decode`. -/
def decryptRotation (A : Cells) (P : Byte) (C : Cells) : Except FnError Cells :=
  match rot A P C with
  | .error e => .error e
  | .ok E => decodeText A P E

/-- `ROTS`, R133: `Q <- rot(M)`. -/
def execRots (s : State) : Host.Outcome State Fault Refusal :=
  .next (dataCommand readsMOnly (rot s.alpha s.pad s.m) s)

/-- `ENCROT`, R134: `Q <- encryptRotation(M)`. -/
def execEncrot (s : State) : Host.Outcome State Fault Refusal :=
  .next (dataCommand readsMOnly (encryptRotation s.alpha s.pad s.m) s)

/-- `DECROT`, R135: `Q <- decryptRotation(M)`. -/
def execDecrot (s : State) : Host.Outcome State Fault Refusal :=
  .next (dataCommand readsMOnly (decryptRotation s.alpha s.pad s.m) s)

end Sys2Proof.Machine
end

