-- ==== Sys2Proof/Machine/Dispatch.lean ====
section
/-! DEFINITION. The dispatch of a decoded command to its meaning, one arm per constructor. -/

namespace Sys2Proof.Machine

/-- The effect of one command (spec/30_encoding.md R73), the whole of it inside one `CMD` write
(20_memory.md R65). -/
def exec (i : Instr) (s : State) : Host.Outcome State Fault Refusal :=
  match i with
  | .clr => Sys2Proof.Machine.execClr s
  | .clrm => Sys2Proof.Machine.execClrm s
  | .clrk => Sys2Proof.Machine.execClrk s
  | .qtom => Sys2Proof.Machine.execQtom s
  | .qtok => Sys2Proof.Machine.execQtok s
  | .t2b => Sys2Proof.Machine.execT2b s
  | .b2t => Sys2Proof.Machine.execB2t s
  | .b2e => Sys2Proof.Machine.execB2e s
  | .e2b => Sys2Proof.Machine.execE2b s
  | .strip => Sys2Proof.Machine.execStrip s
  | .pad4 => Sys2Proof.Machine.execPad4 s
  | .enc => Sys2Proof.Machine.execEnc s
  | .dec => Sys2Proof.Machine.execDec s
  | .rots => Sys2Proof.Machine.execRots s
  | .encrot => Sys2Proof.Machine.execEncrot s
  | .decrot => Sys2Proof.Machine.execDecrot s
  | .repk => Sys2Proof.Machine.execRepk s
  | .adds => Sys2Proof.Machine.execAdds s
  | .subs => Sys2Proof.Machine.execSubs s
  | .encadd => Sys2Proof.Machine.execEncadd s
  | .decadd => Sys2Proof.Machine.execDecadd s

end Sys2Proof.Machine
end

