-- ==== Sys2Proof/Machine/Port.lean ====
section
/-! DEFINITION. The register port (spec/20_memory.md R50 to R52, 10_state.md R23 to R33) and how
one event is performed. -/

namespace Sys2Proof.Machine

/-- Register 0, `CMD` (10_state.md R24). -/
def regCmd : Fin 16 := 0
/-- Register 1, `STATUS` (R25). -/
def regStatus : Fin 16 := 1
/-- Register 2, `ERRIDX` (R26). -/
def regErridx : Fin 16 := 2
/-- Register 3, `NARG` (R28). -/
def regNarg : Fin 16 := 3
/-- Register 4, `MLEN` (R29). -/
def regMlen : Fin 16 := 4
/-- Register 5, `KLEN` (R29). -/
def regKlen : Fin 16 := 5
/-- Register 6, `QLEN` (R29). -/
def regQlen : Fin 16 := 6
/-- Register 7, `MPUSH` (R31). -/
def regMpush : Fin 16 := 7
/-- Register 8, `KPUSH` (R31). -/
def regKpush : Fin 16 := 8
/-- Register 9, `QPTR` (R32). -/
def regQptr : Fin 16 := 9
/-- Register 10, `QDATA` (R32). -/
def regQdata : Fin 16 := 10

/-- What `RegRead(1)` returns in the FAILED state: `CFGOK = 0`, `ERR = 1` (70_reset_and_hazards.md
R193). -/
def failedStatus : Word := 0x00000010#32

/-- The view `QDATA` of 10_state.md R32: `Q[QPTR]` zero-extended, or 0 beyond the end of Q. -/
def qdataView (s : State) : Word :=
  match s.q[s.qptr.toNat]? with
  | some c => c.setWidth 32
  | none => 0#32

/-- The value `RegRead(r)` returns (20_memory.md R51); no read changes the state. -/
def regRead (s : State) (r : Fin 16) : Word :=
  if s.cfgok then
    match r.val with
    | 1 => statusWord s.cfgok s.mperr s.kperr s.errk s.err
    | 2 => s.erridx
    | 3 => s.narg
    | 4 => BitVec.ofNat 32 s.m.length
    | 5 => BitVec.ofNat 32 s.k.length
    | 6 => BitVec.ofNat 32 s.q.length
    | 9 => s.qptr
    | 10 => qdataView s
    | _ => 0#32
  else if r = regStatus then failedStatus else 0#32

/-- `RegWrite(0, w)`: decode the word and execute the command, or report `ILLCMD` (10_state.md R24,
30_encoding.md R70, R75). -/
def writeCmd (w : Word) (s : State) : Host.Outcome State Fault Refusal :=
  match decode w with
  | .ok i => exec i s
  | .error _ => .next (illegalCommand s)

/-- What `RegWrite(r, v)` does (20_memory.md R52); writes to read-only and reserved registers are
ignored. -/
def regWrite (r : Fin 16) (v : Word) (s : State) : Host.Outcome State Fault Refusal :=
  match r.val with
  | 0 => writeCmd v s
  | 3 => .next (onConfigured s (s.setNarg v))
  | 7 => .next (pushM v s)
  | 8 => .next (pushK v s)
  | 9 => .next (onConfigured s (s.setQptr v))
  | _ => .next s

/-- The state in which the port performs an event: the event has left `inbox`, `reply` holds what
the port returns for it. -/
def State.accept (s : State) (rest : List Event) (answer : Option Word) : State :=
  { s with inbox := rest, reply := answer }

/-- A reset event (70_reset_and_hazards.md R190): every piece of state takes its reset value and
nothing survives; only the host's own later transactions are still to come. A capacity R5 excludes
stops the machine (assumption log 7). -/
def performReset (p : Params) (rest : List Event) : Host.Outcome State Fault Refusal :=
  if p.wf then .next ((State.resetWith p).accept rest none) else .fault .capacityOutOfRange

/-- Perform the next event of the total order of 20_memory.md R61, entirely, before any other
(R50, R65). With no event issued the block waits (10_state.md R27; assumption log 2). -/
def serve (s : State) : Host.Outcome State Fault Refusal :=
  match s.inbox with
  | [] => .next s
  | .read r :: rest => .next (s.accept rest (some (regRead s r)))
  | .write r v :: rest => regWrite r v (s.accept rest none)
  | .reset p :: rest => performReset p rest

end Sys2Proof.Machine
end

