-- ==== Sys2Proof/Machine/Step.lean ====
section
/-! DEFINITION. One step of the machine: one event at the port. -/

namespace Sys2Proof.Machine

/-- One step: the next event is performed (spec/20_memory.md R61; assumption log 1). -/
def step (s : State) : Host.Outcome State Fault Refusal := serve s

/-- `s` with the command word `w` as the next thing the host writes to `CMD`: a command is the data
of a host write and is fetched from nowhere (20_memory.md R63), so this is where `step` finds its
next command (assumption log 1). -/
def State.withFetchWord (s : State) (_nbits w : Nat) : State :=
  { s with inbox := .write regCmd (BitVec.ofNat 32 w) :: s.inbox }

end Sys2Proof.Machine
end

