-- ==== Sys2Proof/Safety.lean ====
section
/-! DEFINITION. What a state that a run can reach looks like: the parts of the invariant the claims
cite, each from the rule of spec/ it formalises. -/

namespace Sys2Proof.Machine

/-- The capacities are in the range of 00_scope.md R5. -/
abbrev State.ParamsInRange (s : State) : Prop := s.params.wf = true

/-- `CFGOK`, `ALPHA` and `PAD` are what the configuration load made of the parameters at the last
reset (10_state.md R20 to R22, 70_reset_and_hazards.md R192, R196). -/
abbrev State.ConfigAsLoaded (s : State) : Prop :=
  s.cfgok = (loadConfig s.params).isSome ∧
  s.alpha = ((loadConfig s.params).map Prod.fst).getD [] ∧
  s.pad = ((loadConfig s.params).map Prod.snd).getD 0#8

/-- An Alphabet of exactly 64 distinct symbols and a marker outside it (00_scope.md R10,
10_state.md R20, R21). -/
abbrev AlphabetOk (A : Cells) (P : Byte) : Prop := A.length = 64 ∧ A.Nodup ∧ P ∉ A

/-- The configuration is meaningful whenever `CFGOK = 1` (10_state.md R20, R21). -/
abbrev State.AlphabetMeaningful (s : State) : Prop := s.cfgok = true → AlphabetOk s.alpha s.pad

/-- No buffer is longer than its capacity (10_state.md R30). -/
abbrev State.BuffersFit (s : State) : Prop :=
  s.m.length ≤ s.params.capM ∧ s.k.length ≤ s.params.capK ∧ s.q.length ≤ s.params.capQ

/-- In the FAILED state everything but the configuration is at its reset value
(10_state.md R39, R40, 70_reset_and_hazards.md R193). -/
abbrev State.FailedFrozen (s : State) : Prop :=
  s.cfgok = false →
    s.m = [] ∧ s.k = [] ∧ s.q = [] ∧ s.narg = 0#32 ∧ s.qptr = 0#32 ∧ s.erridx = 0#32 ∧
    s.err = 1#4 ∧ s.errk = false ∧ s.mperr = false ∧ s.kperr = false

/-- With `CFGOK = 1` the error registers hold one of the rows of 60_exceptions.md R170: codes 1 and
8 to 15 do not occur, `ERRK = 1` goes with `INVSYM` only, an index goes with `INVSYM` and `BADBIT`
only. -/
abbrev State.ErrorRowLegal (s : State) : Prop :=
  s.cfgok = true →
    s.err.toNat ≤ 7 ∧ s.err ≠ 1#4 ∧ (s.errk = true → s.err = 2#4) ∧
    (s.err ≠ 2#4 → s.err ≠ 4#4 → s.erridx = 0#32)

/-- The structural invariant: every part above. -/
abbrev State.Sound (s : State) : Prop :=
  s.ParamsInRange ∧ s.ConfigAsLoaded ∧ s.AlphabetMeaningful ∧ s.BuffersFit ∧ s.FailedFrozen ∧
    s.ErrorRowLegal

/-- The cell of `b` at index `i` exists and satisfies `p`. -/
def cellSatisfies (b : Cells) (i : Word) (p : Byte → Bool) : Bool :=
  match b[i.toNat]? with
  | some c => p c
  | none => false

/-- The recorded values are true of the buffers (60_exceptions.md R176, R177): with `INVSYM` the
recorded cell exists in the buffer `ERRK` names and is no symbol; with `BADBIT` the recorded cell of
M exists and is neither 0x30 nor 0x31; and after `INVSYM`, `INVKEY`, `BADBIT` or `OPERAND` Q is
empty. -/
abbrev State.ErrorRecordTrue (s : State) : Prop :=
  (s.err = 2#4 → s.errk = false →
    cellSatisfies s.m s.erridx (fun c => decide (c ∉ s.alpha)) = true) ∧
  (s.err = 2#4 → s.errk = true →
    cellSatisfies s.k s.erridx (fun c => decide (c ∉ s.alpha)) = true) ∧
  (s.err = 4#4 →
    cellSatisfies s.m s.erridx (fun c => decide (c ≠ 0x30#8 ∧ c ≠ 0x31#8)) = true) ∧
  (s.err = 2#4 ∨ s.err = 3#4 ∨ s.err = 4#4 ∨ s.err = 7#4 → s.q = [])

/-- A run is safe from `s` for one step when the machine answers a next state: no transaction and no
command stops it (93_implementation_defined.md, end of part 1). -/
def CanStep (s : State) : Prop := ∃ t, step s = .next t

/-- `n` steps, one event each, stopping where a step stops. -/
def runFor : Nat → State → Host.Outcome State Fault Refusal
  | 0, s => .next s
  | n + 1, s =>
    match step s with
    | .next t => runFor n t
    | .fault f => .fault f
    | .refused r => .refused r

end Sys2Proof.Machine
end

