-- ==== Sys2Proof/Certificates/Slice0/Obligations.lean ====
section
/-! DEFINITION. The statements for the provers, and the few words they are written in. -/

namespace Sys2Proof.Claims

open Sys2Proof Sys2Proof.Machine

/-- The state after a data command that commits `Q` (spec/30_encoding.md R78 step 4): nothing but
Q, QPTR and the three error registers differs. -/
def finished (s : State) (Q : Cells) : State :=
  { s with q := Q, qptr := 0#32, err := 0#4, erridx := 0#32, errk := false }

/-- The state after `fail(code, i, k)` of 30_encoding.md R78. -/
def failedWith (s : State) (code : BitVec 4) (i : Nat) (inK : Bool) : State :=
  { s with q := [], qptr := 0#32, err := code, erridx := BitVec.ofNat 32 i, errk := inK }

/-- The three error registers written, all else as it was (43_buffer_control.md,
60_exceptions.md R179). -/
def reported (s : State) (code : BitVec 4) : State :=
  { s with err := code, erridx := 0#32, errk := false }

/-- The state in which the block performs an event: it has left the queue of events to come, and the
port has answered `answer`. -/
def taken (s : State) (rest : List Event) (answer : Option Word) : State :=
  { s with inbox := rest, reply := answer }

/-- `gs` are the indices of the symbols of `S` in the Alphabet `A` (00_scope.md R10). -/
abbrev Indices (A S : Cells) (gs : List Idx) : Prop := gs.map (fun g => A[g.toNat]?) = S.map some

/-- The symbols whose indices are those of `gs` plus `d`, modulo 64 (00_scope.md R9, R10). -/
def symbolsAt (A : Cells) (gs : List Idx) (d : Nat) : Cells :=
  gs.filterMap fun g => A[(g.toNat + d) % 64]?

/-- The cell `c` is a bit cell (10_state.md R37). -/
abbrev BitCell (c : Byte) : Prop := c = 0x30#8 ∨ c = 0x31#8

/-- The first cell of `S` that fails `good` is `c`, at index `i`. -/
abbrev FirstBad (S : Cells) (good : Byte → Prop) (i : Nat) (c : Byte) : Prop :=
  S[i]? = some c ∧ ¬ good c ∧ ∀ d ∈ S.take i, good d

/-- `m` is `S` followed by its trailing run of `n` markers (40_bit_codec.md R105). -/
abbrev TrailingMarkers (P : Byte) (m S : Cells) (n : Nat) : Prop :=
  m = S ++ List.replicate n P ∧ S.getLast? ≠ some P

/-- Bit `p` of the bit stream of the text `T`, most significant bit of each character first, zero
beyond the end (20_memory.md R56). -/
def textBit (T : Cells) (p : Nat) : Bool :=
  match T[p / 8]? with
  | some c => c.getLsbD (7 - p % 8)
  | none => false

/-- Bit `p` of the bit stream of the indices `gs`, most significant bit of each group first, zero
beyond the end (20_memory.md R56). -/
def groupBit (gs : List Idx) (p : Nat) : Bool :=
  match gs[p / 6]? with
  | some g => g.getLsbD (5 - p % 6)
  | none => false

/-- `g` is the index of group `j` of the bit stream of the text `T` (40_bit_codec.md R102). -/
abbrev GroupOf (T : Cells) (j : Nat) (g : Idx) : Prop :=
  ∀ t, t < 6 → g.getLsbD (5 - t) = textBit T (6 * j + t)

/-- The characters of `Q` are the bits of the indices `gs`, regrouped by eight, a rest of fewer than
eight dropped (40_bit_codec.md R101). -/
abbrev TextOfGroups (gs : List Idx) (Q : Cells) : Prop :=
  Q.length = 3 * gs.length / 4 ∧ ∀ p, p < 8 * Q.length → textBit Q p = groupBit gs p

/-- The number of 6-bit groups of a text of `n` characters: `ceil(8n / 6)` = `ceil(4n / 3)`. -/
def symbolCount (n : Nat) : Nat := (4 * n + 2) / 3

/-- The length of the padded encoding of a text of `n` characters: `4 × ceil(n / 3)`. -/
def paddedCount (n : Nat) : Nat := 4 * ((n + 2) / 3)

/-- The 16 data commands (30_encoding.md R73). -/
def dataCommands : List Instr :=
  [.t2b, .b2t, .b2e, .e2b, .strip, .pad4, .enc, .dec, .rots, .encrot, .decrot,
   .repk, .adds, .subs, .encadd, .decadd]

/-- The 5 commands that take a key from K (43_buffer_control.md R162). -/
def keyedCommands : List Instr := [.repk, .adds, .subs, .encadd, .decadd]

/-- The event is a write to `CMD` of the word of one of the commands `l`. -/
abbrev IsCommand (e : Event) (l : List Instr) : Prop :=
  ∃ i ∈ l, e = .write 0 (encode i)

/-- The event is a reset. -/
abbrev IsReset (e : Event) : Prop := ∃ p, e = .reset p

end Sys2Proof.Claims

open Sys2Proof Sys2Proof.Machine Sys2Proof.Claims

/-! ### The command word -/

/-- Tier 3 (encoding). The decoder and the encoder agree in both directions, on every 32-bit word
and every command: no bit of a word is dropped and no word but a command's own decodes to it. -/
def Obligations.DecodeAndEncodeAgree : Prop :=
  ∀ (w : Word) (i : Instr), decode w = .ok i ↔ encode i = w

/-- Sanity: words written out from the opcode map of 30_encoding.md R74 decode to the command the
map names. -/
def Obligations.OpcodeMapWordsDecode : Prop :=
  decodeTableWord 32 0x00000001 = some .clr ∧ decodeTableWord 32 0x00000017 = some .dec ∧
  decodeTableWord 32 0x00000021 = some .encrot ∧ decodeTableWord 32 0x00000034 = some .decadd ∧
  decodeTableWord 32 0x00000000 = none ∧ decodeTableWord 32 0x00000121 = none

/-- A write to `CMD` of an illegal word, one with a non-zero bit in 31:8 or an opcode that is not one
of the 21 of 30_encoding.md R74, reports `ILLCMD` and changes nothing else (R75, 60_exceptions.md
R179). -/
def Obligations.IllegalWordReportsIllcmdOnly : Prop :=
  ∀ (s : State) (w : Word) (rest : List Event),
    s.cfgok = true → s.inbox = .write 0 w :: rest →
    (w.extractLsb' 8 24 ≠ 0#24 ∨
      w.extractLsb' 0 8 ∉ ([0x01, 0x02, 0x03, 0x04, 0x05, 0x10, 0x11, 0x12, 0x13, 0x14, 0x15, 0x16,
        0x17, 0x20, 0x21, 0x22, 0x30, 0x31, 0x32, 0x33, 0x34] : List (BitVec 8))) →
    step s = .next (reported (taken s rest none) 6#4)

/-- A step runs the decoded command: when the next event is a write to `CMD` of a word that decodes
to a well-formed command, the step is that command's effect on the state in which the event has left
the queue and the port has nothing to return (10_state.md R24, 20_memory.md R65). -/
def Obligations.StepRunsTheDecodedCommand : Prop :=
  ∀ (s : State) (w : Word) (i : Instr) (rest : List Event),
    s.inbox = .write 0 w :: rest → decode w = .ok i → i.wf = true →
    step s = exec i (taken s rest none)

/-! ### The register port -/

/-- `RegRead` (20_memory.md R51, with the STATUS fields of 10_state.md R25): the value of every
register, in both states of the configuration, and that a read changes nothing. -/
def Obligations.RegisterReadsAnswerTheViews : Prop :=
  ∀ (s : State) (r : Fin 16) (rest : List Event), s.inbox = .read r :: rest →
    ∃ v : Word, step s = .next (taken s rest (some v)) ∧
      (s.cfgok = true →
        (r = 0 ∨ r = 7 ∨ r = 8 ∨ 11 ≤ r.val → v = 0#32) ∧
        (r = 1 → v.getLsbD 0 = true ∧ v.getLsbD 1 = s.mperr ∧ v.getLsbD 2 = s.kperr ∧
          v.getLsbD 3 = s.errk ∧ v.extractLsb' 4 4 = s.err ∧ v.extractLsb' 8 24 = 0#24) ∧
        (r = 2 → v = s.erridx) ∧ (r = 3 → v = s.narg) ∧
        (r = 4 → v = BitVec.ofNat 32 s.m.length) ∧ (r = 5 → v = BitVec.ofNat 32 s.k.length) ∧
        (r = 6 → v = BitVec.ofNat 32 s.q.length) ∧ (r = 9 → v = s.qptr) ∧
        (r = 10 → s.q.length ≤ s.qptr.toNat → v = 0#32) ∧
        (r = 10 → ∀ c, s.q[s.qptr.toNat]? = some c → v.toNat = c.toNat)) ∧
      (s.cfgok = false → (r = 1 → v = 0x00000010#32) ∧ (r ≠ 1 → v = 0#32))

/-- Pushes (10_state.md R31): a value up to 255 is appended while there is room; a wider value or a
full buffer leaves the buffer as it was and sets its flag; nothing else changes; the two ports read
0; and while a flag is set, every data command that reads its buffer fails with `OPERAND`. -/
def Obligations.PushesAppendOrAreRefused : Prop :=
  (∀ (s : State) (v : Word) (rest : List Event), s.cfgok = true →
    (s.inbox = .write 7 v :: rest →
      (∀ c : Byte, v.toNat = c.toNat → s.m.length < s.params.capM →
        step s = .next { taken s rest none with m := s.m ++ [c] }) ∧
      (255 < v.toNat ∨ s.params.capM ≤ s.m.length →
        step s = .next { taken s rest none with mperr := true })) ∧
    (s.inbox = .write 8 v :: rest →
      (∀ c : Byte, v.toNat = c.toNat → s.k.length < s.params.capK →
        step s = .next { taken s rest none with k := s.k ++ [c] }) ∧
      (255 < v.toNat ∨ s.params.capK ≤ s.k.length →
        step s = .next { taken s rest none with kperr := true }))) ∧
  (∀ s : State, regRead s 7 = 0#32 ∧ regRead s 8 = 0#32) ∧
  (∀ (s : State) (i : Instr), s.cfgok = true →
    (s.mperr = true → i ∈ dataCommands → i ≠ .repk → exec i s = .next (failedWith s 7#4 0 false)) ∧
    (s.kperr = true → i ∈ keyedCommands → exec i s = .next (failedWith s 7#4 0 false)))

/-- The other register writes (20_memory.md section 1): `NARG` and `QPTR` take the word, every
read-only and every reserved register ignores it. -/
def Obligations.OtherRegisterWrites : Prop :=
  ∀ (s : State) (r : Fin 16) (v : Word) (rest : List Event), s.cfgok = true →
    s.inbox = .write r v :: rest →
    (r = 3 → step s = .next { taken s rest none with narg := v }) ∧
    (r = 9 → step s = .next { taken s rest none with qptr := v }) ∧
    (r ≠ 0 → r ≠ 3 → r ≠ 7 → r ≠ 8 → r ≠ 9 → step s = .next (taken s rest none))

/-- The FAILED state (70_reset_and_hazards.md section 1): a failed load leads into it with empty
buffers; in it every write to any register, `CMD` included, is ignored, `STATUS` reads 0x00000010 and
every other register 0. The last clause, that the meaning of a command itself leaves such a state as it
is, is the model's (DEDUCED, assumption log 12): the spec speaks of the write to `CMD`. -/
def Obligations.FailedStateIgnoresEverything : Prop :=
  (∀ p : Params, loadConfig p = none →
    (State.resetWith p).cfgok = false ∧ (State.resetWith p).m = [] ∧
    (State.resetWith p).k = [] ∧ (State.resetWith p).q = []) ∧
  (∀ (s : State) (e : Event) (rest : List Event), s.cfgok = false → s.inbox = e :: rest →
    (∀ r v, e = .write r v → step s = .next (taken s rest none)) ∧
    (e = .read 1 → step s = .next (taken s rest (some 0x00000010#32))) ∧
    (∀ r, r ≠ 1 → e = .read r → step s = .next (taken s rest (some 0#32)))) ∧
  (∀ (s : State) (i : Instr), s.cfgok = false → exec i s = .next s)

/-- Loading an operand (20_memory.md section 1): `CLRM` and then one push per cell leaves exactly the
cells in M when they fit, and the first `CAP_M` of them with `MPERR` set when they do not; nothing
else but the error registers changes. -/
def Obligations.ClearThenPushesLoadTheMessage : Prop :=
  ∀ (s : State) (S : Cells) (rest : List Event), s.cfgok = true →
    s.inbox = .write 0 (encode .clrm) :: (S.map fun c => .write 7 (c.setWidth 32)) ++ rest →
    runFor (S.length + 1) s =
      .next { reported (taken s rest none) 0#4 with
        m := S.take s.params.capM, mperr := decide (s.params.capM < S.length) }

/-- Reading a result (20_memory.md section 1): a write of `i` to `QPTR` and a read of `QDATA` return
cell `i` of Q, and nothing but `QPTR` changes. -/
def Obligations.PointerThenDataReadsTheResult : Prop :=
  ∀ (s : State) (i : Word) (c : Byte) (rest : List Event), s.cfgok = true →
    s.q[i.toNat]? = some c → s.inbox = .write 9 i :: .read 10 :: rest →
    runFor 2 s =
      .next { taken s rest (some (c.setWidth 32)) with qptr := i }

/-! ### Reset and the configuration -/

/-- A reset event with capacities in range: the repair and the check of the configuration load
(70_reset_and_hazards.md section 1), and the value of every piece of state afterwards (10_state.md
section 7), `STATUS` included (10_state.md section 2). That the capacities too are taken from the reset
event, the clause `t.params = p`, is the model's choice (DESIGN CHOICE, assumption log 4), and so is
that the later events stay to be performed, the clause `t.inbox = rest` (assumption log 1). -/
def Obligations.ResetLoadsTheConfiguration : Prop :=
  ∀ (s : State) (p : Params) (rest : List Event) (S : Cells),
    s.inbox = .reset p :: rest → p.wf = true →
    (p.cfgSyms.length = 62 ∧ p.cfgSyms.Nodup ∧ 0x2B#8 ∉ p.cfgSyms ∧ 0x2F#8 ∉ p.cfgSyms →
      S = p.cfgSyms ++ [0x2B#8, 0x2F#8]) →
    (¬(p.cfgSyms.length = 62 ∧ p.cfgSyms.Nodup ∧ 0x2B#8 ∉ p.cfgSyms ∧ 0x2F#8 ∉ p.cfgSyms) →
      S = p.cfgSyms) →
    ∃ t, step s = .next t ∧ t.m = [] ∧ t.k = [] ∧ t.q = [] ∧ t.narg = 0#32 ∧ t.qptr = 0#32 ∧
      t.erridx = 0#32 ∧ t.errk = false ∧ t.mperr = false ∧ t.kperr = false ∧ t.params = p ∧
      t.inbox = rest ∧
      (S.length = 64 ∧ S.Nodup ∧ p.cfgPad ∉ S →
        t.cfgok = true ∧ t.alpha = S ∧ t.pad = p.cfgPad ∧ t.err = 0#4 ∧
        regRead t 1 = 0x00000001#32) ∧
      (¬(S.length = 64 ∧ S.Nodup ∧ p.cfgPad ∉ S) →
        t.cfgok = false ∧ t.err = 1#4 ∧ regRead t 1 = 0x00000010#32)

/-- The model's `State.reset` (the DEFAULT parameters of 00_scope.md R5 are the model's choice for
it, assumption log 5): the configuration is accepted, the Alphabet is the default table, and the
registers read as 10_state.md R39 says. -/
def Obligations.ModelResetUsesTheDefaultTable : Prop :=
  State.reset.cfgok = true ∧ State.reset.alpha.length = 64 ∧
  State.reset.alpha[0]? = some 0x41#8 ∧ State.reset.alpha[26]? = some 0x61#8 ∧
  State.reset.alpha[52]? = some 0x30#8 ∧ State.reset.alpha[62]? = some 0x2B#8 ∧
  State.reset.alpha[63]? = some 0x2F#8 ∧ State.reset.pad = 0x3D#8 ∧
  regRead State.reset 1 = 1#32 ∧ (∀ r : Fin 16, r ≠ 1 → regRead State.reset r = 0#32)

/-- The invariants hold right after a reset, whatever parameters in range it samples, and so of
`State.reset`, whose parameters are the model's choice (DESIGN CHOICE, assumption log 5). The values of
`ALPHA` and `PAD` after a failed load, which `State.ConfigAsLoaded` fixes and the spec calls not
meaningful, are the model's choice too (DESIGN CHOICE, unsafe, assumption log 6). -/
def Obligations.ResetMeetsTheInvariants : Prop :=
  (∀ p : Params, p.wf = true → (State.resetWith p).Sound ∧ (State.resetWith p).ErrorRecordTrue) ∧
  State.reset.Sound ∧ State.reset.ErrorRecordTrue

/-- Tier 3 (invariant). Every step keeps the structural invariant: capacities in range, the
configuration as the load made it (70_reset_and_hazards.md R196), an Alphabet of 64 distinct symbols
without the marker (10_state.md R20, R21), buffers within their capacities (R30), the FAILED state
frozen (R40), the error registers on a row of 60_exceptions.md R170. For a failed load, that `ALPHA` is
`[]` and `PAD` 0 (in `State.ConfigAsLoaded`) is no rule of the spec, which calls them not meaningful: it
is the model's choice (DESIGN CHOICE, unsafe, assumption log 6). That the capacities are taken at a
reset is the model's choice as well (assumption log 4). -/
def Obligations.EveryStepKeepsTheStateSound : Prop :=
  ∀ s t : State, s.Sound → step s = .next t → t.Sound

/-- Tier 3 (invariant). Every step keeps the truth of what the error registers record
(60_exceptions.md R176, R177): the recorded cell is where `ERRIDX` and `ERRK` say and is a bad one,
and after a failed data command there is no partial result. The premise `State.Sound` holds the
model's choice of assumption log 6 for the FAILED state. -/
def Obligations.EveryStepKeepsTheErrorRecordTrue : Prop :=
  ∀ s t : State, s.Sound → s.ErrorRecordTrue → step s = .next t → t.ErrorRecordTrue

/-- The configuration is immutable between resets (70_reset_and_hazards.md section 1): whatever event
but a reset is performed, `CFGOK`, `ALPHA` and `PAD` stay. That the parameters stay, the clause
`t.params = s.params`, is read from 00_scope.md section 4 (DEDUCED, assumption log 4). -/
def Obligations.OnlyAResetChangesTheConfiguration : Prop :=
  ∀ (s t : State), step s = .next t →
    (∀ (p : Params) (rest : List Event), s.inbox ≠ .reset p :: rest) →
    t.cfgok = s.cfgok ∧ t.alpha = s.alpha ∧ t.pad = s.pad ∧ t.params = s.params

/-- The machine goes on from every state but one whose next event is a reset with a capacity that
00_scope.md R5 excludes; that one stops (the fault is the model's, assumption log 7). -/
def Obligations.OnlyAnExcludedCapacityStops : Prop :=
  ∀ s : State,
    (CanStep s ↔ ∀ (p : Params) (rest : List Event), s.inbox = .reset p :: rest →
      (1 ≤ p.capM ∧ p.capM < 2 ^ 32) ∧ (1 ≤ p.capK ∧ p.capK < 2 ^ 32) ∧
      (1 ≤ p.capQ ∧ p.capQ < 2 ^ 32)) ∧
    (¬ CanStep s → step s = .fault .capacityOutOfRange)

/-! ### What changes what -/

/-- Only a push, `CLR`, `CLRM`, `QTOM` or a reset changes M, and only a push, `CLR`, `CLRK`, `QTOK`
or a reset changes K (10_state.md section 3): no data command consumes an operand. -/
def Obligations.WhatChangesTheOperandBuffers : Prop :=
  ∀ (s t : State) (e : Event) (rest : List Event), s.inbox = e :: rest → step s = .next t →
    (t.m ≠ s.m → (∃ v, e = .write 7 v) ∨ IsCommand e [.clr, .clrm, .qtom] ∨ IsReset e) ∧
    (t.k ≠ s.k → (∃ v, e = .write 8 v) ∨ IsCommand e [.clr, .clrk, .qtok] ∨ IsReset e)

/-- Only a data command, `CLR` or a reset changes Q; besides these only a write to `QPTR` changes
`QPTR`; and every data command with `CFGOK = 1` sets `QPTR` to 0, also when it fails
(70_reset_and_hazards.md section 3). -/
def Obligations.WhatChangesTheResultBuffer : Prop :=
  (∀ (s t : State) (e : Event) (rest : List Event), s.inbox = e :: rest → step s = .next t →
    (t.q ≠ s.q → IsCommand e dataCommands ∨ IsCommand e [.clr] ∨ IsReset e) ∧
    (t.qptr ≠ s.qptr →
      (∃ v, e = .write 9 v) ∨ IsCommand e dataCommands ∨ IsCommand e [.clr] ∨ IsReset e)) ∧
  (∀ (s : State), s.cfgok = true → ∀ i ∈ dataCommands,
    ∃ t, exec i s = .next t ∧ t.qptr = 0#32 ∧ (t.err ≠ 0#4 → t.q = []))

/-- `NARG` is written by a write to register 3, by `CLR` and by a reset; `MPERR` and `KPERR` are set
by a push only and cleared by `CLR`, by the clear of their buffer, by a copy into it and by a reset;
the error registers are written by writes to `CMD` and by a reset only (10_state.md sections 2 and
4). -/
def Obligations.WhatChangesTheFlagsAndNarg : Prop :=
  ∀ (s t : State) (e : Event) (rest : List Event), s.inbox = e :: rest → step s = .next t →
    (t.narg ≠ s.narg → (∃ v, e = .write 3 v) ∨ IsCommand e [.clr] ∨ IsReset e) ∧
    (s.mperr = false → t.mperr = true → ∃ v, e = .write 7 v) ∧
    (s.mperr = true → t.mperr = false → IsCommand e [.clr, .clrm, .qtom] ∨ IsReset e) ∧
    (s.kperr = false → t.kperr = true → ∃ v, e = .write 8 v) ∧
    (s.kperr = true → t.kperr = false → IsCommand e [.clr, .clrk, .qtok] ∨ IsReset e) ∧
    (t.err ≠ s.err ∨ t.errk ≠ s.errk ∨ t.erridx ≠ s.erridx → (∃ w, e = .write 0 w) ∨ IsReset e)

/-- The outcome of a data command is a function of `(ALPHA, PAD, M, K, NARG)`, the push flags and
`CAP_Q` (10_state.md section 5): whatever else differs between two states, Q, QPTR and the error
registers come out the same; and a command that does not read a buffer does not depend on it
(30_encoding.md section 2). -/
def Obligations.DataResultsDependOnTheOperandsOnly : Prop :=
  ∀ (s s' : State), s.cfgok = true → s'.cfgok = true → s.alpha = s'.alpha → s.pad = s'.pad →
    s.params.capQ = s'.params.capQ → ∀ i ∈ dataCommands,
    (i = .repk ∨ (s.m = s'.m ∧ s.mperr = s'.mperr)) →
    (i ∉ keyedCommands ∨ (s.k = s'.k ∧ s.kperr = s'.kperr)) →
    (i ≠ .repk ∨ s.narg = s'.narg) →
    ∃ t t', exec i s = .next t ∧ exec i s' = .next t' ∧ t.q = t'.q ∧ t.qptr = t'.qptr ∧
      t.err = t'.err ∧ t.errk = t'.errk ∧ t.erridx = t'.erridx

/-- A write to `CMD` is idempotent for every command (20_memory.md section 1): issuing the command
again, at once, changes nothing more. -/
def Obligations.CommandsAreIdempotent : Prop :=
  ∀ (i : Instr) (s : State), ∃ t, exec i s = .next t ∧ exec i t = .next t

/-! ### The buffer control family -/

/-- `CLR` (43_buffer_control.md R160), and its corner case: in a state whose configuration is as the
load made it, the result is the state after an accepting reset. -/
def Obligations.ClrClearsWhatTheHostCanClear : Prop :=
  encode .clr = 0x00000001#32 ∧
  ∀ s : State, s.cfgok = true →
    exec .clr s = .next { s with
      m := [], k := [], q := [], narg := 0#32, qptr := 0#32, mperr := false, kperr := false,
      err := 0#4, errk := false, erridx := 0#32 } ∧
    (s.ConfigAsLoaded →
      exec .clr s = .next (taken (State.resetWith s.params) s.inbox s.reply))

/-- `CLRM` (43_buffer_control.md R161). -/
def Obligations.ClrmClearsTheMessage : Prop :=
  encode .clrm = 0x00000002#32 ∧
  ∀ s : State, s.cfgok = true →
    exec .clrm s = .next { s with
      m := [], mperr := false, err := 0#4, errk := false, erridx := 0#32 }

/-- `CLRK` (43_buffer_control.md R162), and its corner case: until a cell is pushed into K, every
keyed command fails with `INVKEY`, unless the push flag of M makes it fail with `OPERAND` first. -/
def Obligations.ClrkClearsTheKey : Prop :=
  encode .clrk = 0x00000003#32 ∧
  ∀ s : State, s.cfgok = true →
    ∃ t, exec .clrk s = .next t ∧
      t = { s with k := [], kperr := false, err := 0#4, errk := false, erridx := 0#32 } ∧
      exec .repk t = .next (failedWith t 3#4 0 false) ∧
      (s.mperr = false → ∀ i ∈ keyedCommands, exec i t = .next (failedWith t 3#4 0 false))

/-- `QTOM` (43_buffer_control.md R163): Q replaces M, or `CAPACITY` is reported and M, Q and QPTR
stay. -/
def Obligations.QtomCopiesTheResultToTheMessage : Prop :=
  encode .qtom = 0x00000004#32 ∧
  ∀ s : State, s.cfgok = true →
    (s.q.length ≤ s.params.capM →
      exec .qtom s = .next { s with
        m := s.q, mperr := false, err := 0#4, errk := false, erridx := 0#32 }) ∧
    (s.params.capM < s.q.length → exec .qtom s = .next (reported s 5#4))

/-- `QTOK` (43_buffer_control.md R164): Q replaces K, or `CAPACITY` is reported and K, Q and QPTR
stay; with Q empty K is empty and every keyed command then fails with `INVKEY`. -/
def Obligations.QtokCopiesTheResultToTheKey : Prop :=
  encode .qtok = 0x00000005#32 ∧
  ∀ s : State, s.cfgok = true →
    (s.q.length ≤ s.params.capK →
      exec .qtok s = .next { s with
        k := s.q, kperr := false, err := 0#4, errk := false, erridx := 0#32 }) ∧
    (s.params.capK < s.q.length → exec .qtok s = .next (reported s 5#4)) ∧
    (s.q = [] → s.mperr = false → ∃ t, exec .qtok s = .next t ∧
      ∀ i ∈ keyedCommands, exec i t = .next (failedWith t 3#4 0 false))

/-! ### The Bit Codec family -/

/-- `T2B` (40_bit_codec.md R110, with R100 and 10_state.md R37). -/
def Obligations.T2bWritesTheBitsOfTheText : Prop :=
  encode .t2b = 0x00000010#32 ∧
  ∀ s : State, s.cfgok = true →
    (s.mperr = true → exec .t2b s = .next (failedWith s 7#4 0 false)) ∧
    (s.mperr = false → s.params.capQ < 8 * s.m.length →
      exec .t2b s = .next (failedWith s 5#4 0 false)) ∧
    (s.mperr = false → 8 * s.m.length ≤ s.params.capQ →
      ∃ Q, exec .t2b s = .next (finished s Q) ∧ Q.length = 8 * s.m.length ∧
        ∀ p, p < 8 * s.m.length → Q[p]? = some (if textBit s.m p then 0x31#8 else 0x30#8))

/-- `B2T` (40_bit_codec.md R111, with R101): the least bad cell is reported, also in the tail that
the function drops. -/
def Obligations.B2tReadsTheBitsAsText : Prop :=
  encode .b2t = 0x00000011#32 ∧
  ∀ s : State, s.cfgok = true →
    (s.mperr = true → exec .b2t s = .next (failedWith s 7#4 0 false)) ∧
    (∀ i c, s.mperr = false → FirstBad s.m BitCell i c →
      exec .b2t s = .next (failedWith s 4#4 i false)) ∧
    (s.mperr = false → (∀ c ∈ s.m, BitCell c) → s.params.capQ < s.m.length / 8 →
      exec .b2t s = .next (failedWith s 5#4 0 false)) ∧
    (s.mperr = false → (∀ c ∈ s.m, BitCell c) → s.m.length / 8 ≤ s.params.capQ →
      ∃ Q, exec .b2t s = .next (finished s Q) ∧ Q.length = s.m.length / 8 ∧
        ∀ p, p < 8 * Q.length → textBit Q p = decide (s.m[p]? = some 0x31#8))

/-- `B2E` (40_bit_codec.md R112, with R102 to R104): groups of six, the last filled on the right
with zero bits, then markers up to a multiple of 4. -/
def Obligations.B2eEncodesTheBits : Prop :=
  encode .b2e = 0x00000012#32 ∧
  ∀ s : State, s.cfgok = true → AlphabetOk s.alpha s.pad →
    (s.mperr = true → exec .b2e s = .next (failedWith s 7#4 0 false)) ∧
    (∀ i c, s.mperr = false → FirstBad s.m BitCell i c →
      exec .b2e s = .next (failedWith s 4#4 i false)) ∧
    (s.mperr = false → (∀ c ∈ s.m, BitCell c) →
      s.params.capQ < 4 * (((s.m.length + 5) / 6 + 3) / 4) →
      exec .b2e s = .next (failedWith s 5#4 0 false)) ∧
    (s.mperr = false → (∀ c ∈ s.m, BitCell c) →
      4 * (((s.m.length + 5) / 6 + 3) / 4) ≤ s.params.capQ →
      ∃ (gs : List Idx) (n : Nat), exec .b2e s = .next (finished s
          (symbolsAt s.alpha gs 0 ++ List.replicate n s.pad)) ∧
        gs.length = (s.m.length + 5) / 6 ∧
        gs.length + n = 4 * (((s.m.length + 5) / 6 + 3) / 4) ∧
        ∀ p, p < 6 * gs.length → groupBit gs p = decide (s.m[p]? = some 0x31#8))

/-- `E2B` (40_bit_codec.md R113, with R105, R106): the trailing markers are dropped, each symbol
gives the six bits of its index, the least cell below them that is no symbol is reported. -/
def Obligations.E2bWritesTheBitsOfTheSymbols : Prop :=
  encode .e2b = 0x00000013#32 ∧
  ∀ s : State, s.cfgok = true → AlphabetOk s.alpha s.pad →
    (s.mperr = true → exec .e2b s = .next (failedWith s 7#4 0 false)) ∧
    (∀ S n i c, s.mperr = false → TrailingMarkers s.pad s.m S n →
      FirstBad S (· ∈ s.alpha) i c → exec .e2b s = .next (failedWith s 2#4 i false)) ∧
    (∀ S n gs, s.mperr = false → TrailingMarkers s.pad s.m S n → Indices s.alpha S gs →
      (s.params.capQ < 6 * gs.length → exec .e2b s = .next (failedWith s 5#4 0 false)) ∧
      (6 * gs.length ≤ s.params.capQ →
        ∃ Q, exec .e2b s = .next (finished s Q) ∧ Q.length = 6 * gs.length ∧
          ∀ p, p < 6 * gs.length → Q[p]? = some (if groupBit gs p then 0x31#8 else 0x30#8)))

/-- `STRIP` (40_bit_codec.md R114, with R105): the trailing run of markers goes, an interior marker
stays, no cell is looked up; and every message has such a form. -/
def Obligations.StripDropsTheTrailingMarkers : Prop :=
  encode .strip = 0x00000014#32 ∧
  ∀ s : State, s.cfgok = true →
    (s.mperr = true → exec .strip s = .next (failedWith s 7#4 0 false)) ∧
    (∃ S n, TrailingMarkers s.pad s.m S n) ∧
    (∀ S n, s.mperr = false → TrailingMarkers s.pad s.m S n →
      (s.params.capQ < S.length → exec .strip s = .next (failedWith s 5#4 0 false)) ∧
      (S.length ≤ s.params.capQ → exec .strip s = .next (finished s S)))

/-- `PAD4` (40_bit_codec.md R115, with R103): 0 to 3 markers up to a multiple of 4. -/
def Obligations.Pad4FillsToAMultipleOfFour : Prop :=
  encode .pad4 = 0x00000015#32 ∧
  ∀ s : State, s.cfgok = true →
    (s.mperr = true → exec .pad4 s = .next (failedWith s 7#4 0 false)) ∧
    (∀ p, s.mperr = false → p < 4 → (s.m.length + p) % 4 = 0 →
      (s.params.capQ < s.m.length + p → exec .pad4 s = .next (failedWith s 5#4 0 false)) ∧
      (s.m.length + p ≤ s.params.capQ →
        exec .pad4 s = .next (finished s (s.m ++ List.replicate p s.pad))))

/-- `ENC` (40_bit_codec.md R116, with R107): the groups of the text's bits as symbols, then
markers. -/
def Obligations.EncEncodesTheText : Prop :=
  encode .enc = 0x00000016#32 ∧
  ∀ s : State, s.cfgok = true → AlphabetOk s.alpha s.pad →
    (s.mperr = true → exec .enc s = .next (failedWith s 7#4 0 false)) ∧
    (s.mperr = false → s.params.capQ < paddedCount s.m.length →
      exec .enc s = .next (failedWith s 5#4 0 false)) ∧
    (s.mperr = false → paddedCount s.m.length ≤ s.params.capQ →
      ∃ (gs : List Idx) (n : Nat), exec .enc s = .next (finished s
          (symbolsAt s.alpha gs 0 ++ List.replicate n s.pad)) ∧
        gs.length = symbolCount s.m.length ∧ gs.length + n = paddedCount s.m.length ∧
        ∀ j g, gs[j]? = some g → GroupOf s.m j g)

/-- `DEC` (40_bit_codec.md R117, with R108). -/
def Obligations.DecDecodesTheSymbols : Prop :=
  encode .dec = 0x00000017#32 ∧
  ∀ s : State, s.cfgok = true → AlphabetOk s.alpha s.pad →
    (s.mperr = true → exec .dec s = .next (failedWith s 7#4 0 false)) ∧
    (∀ S n i c, s.mperr = false → TrailingMarkers s.pad s.m S n →
      FirstBad S (· ∈ s.alpha) i c → exec .dec s = .next (failedWith s 2#4 i false)) ∧
    (∀ S n gs, s.mperr = false → TrailingMarkers s.pad s.m S n → Indices s.alpha S gs →
      (s.params.capQ < 3 * gs.length / 4 → exec .dec s = .next (failedWith s 5#4 0 false)) ∧
      (3 * gs.length / 4 ≤ s.params.capQ →
        ∃ Q, exec .dec s = .next (finished s Q) ∧ TextOfGroups gs Q))

/-! ### The Rotation Cipher family -/

/-- `ROTS` (41_rotation.md R133, with R130): a marker passes through wherever it stands, an index
grows by 32 modulo 64, the least other cell is reported. -/
def Obligations.RotsRotatesEverySymbol : Prop :=
  encode .rots = 0x00000020#32 ∧
  ∀ s : State, s.cfgok = true → AlphabetOk s.alpha s.pad →
    (s.mperr = true → exec .rots s = .next (failedWith s 7#4 0 false)) ∧
    (∀ i c, s.mperr = false → FirstBad s.m (fun c => c ∈ s.alpha ∨ c = s.pad) i c →
      exec .rots s = .next (failedWith s 2#4 i false)) ∧
    (s.mperr = false → (∀ c ∈ s.m, c ∈ s.alpha ∨ c = s.pad) →
      (s.params.capQ < s.m.length → exec .rots s = .next (failedWith s 5#4 0 false)) ∧
      (s.m.length ≤ s.params.capQ →
        ∃ Q, exec .rots s = .next (finished s Q) ∧ Q.length = s.m.length ∧
          ∀ i, (s.m[i]? = some s.pad → Q[i]? = some s.pad) ∧
            ∀ g : Idx, s.m[i]? = s.alpha[g.toNat]? → i < s.m.length →
              Q[i]? = s.alpha[(g.toNat + 32) % 64]?))

/-- `ENCROT` (41_rotation.md R134, with R131): the padded encoding with every index grown by 32
modulo 64 and the markers in place. -/
def Obligations.EncrotRotatesTheEncoding : Prop :=
  encode .encrot = 0x00000021#32 ∧
  ∀ s : State, s.cfgok = true → AlphabetOk s.alpha s.pad →
    (s.mperr = true → exec .encrot s = .next (failedWith s 7#4 0 false)) ∧
    (s.mperr = false → s.params.capQ < paddedCount s.m.length →
      exec .encrot s = .next (failedWith s 5#4 0 false)) ∧
    (s.mperr = false → paddedCount s.m.length ≤ s.params.capQ →
      ∃ (gs : List Idx) (n : Nat), exec .encrot s = .next (finished s
          (symbolsAt s.alpha gs 32 ++ List.replicate n s.pad)) ∧
        gs.length = symbolCount s.m.length ∧ gs.length + n = paddedCount s.m.length ∧
        ∀ j g, gs[j]? = some g → GroupOf s.m j g)

/-- `DECROT` (41_rotation.md R135, with R132): a cell that is neither symbol nor marker is reported
before a marker that is not in the trailing run; else the indices less 32 modulo 64 are decoded. -/
def Obligations.DecrotDecodesTheRotatedSymbols : Prop :=
  encode .decrot = 0x00000022#32 ∧
  ∀ s : State, s.cfgok = true → AlphabetOk s.alpha s.pad →
    (s.mperr = true → exec .decrot s = .next (failedWith s 7#4 0 false)) ∧
    (∀ i c, s.mperr = false → FirstBad s.m (fun c => c ∈ s.alpha ∨ c = s.pad) i c →
      exec .decrot s = .next (failedWith s 2#4 i false)) ∧
    (∀ S n i, s.mperr = false → (∀ c ∈ s.m, c ∈ s.alpha ∨ c = s.pad) →
      TrailingMarkers s.pad s.m S n → FirstBad S (· ≠ s.pad) i s.pad →
      exec .decrot s = .next (failedWith s 2#4 i false)) ∧
    (∀ S n gs (hs : List Idx), s.mperr = false → TrailingMarkers s.pad s.m S n → Indices s.alpha S gs →
      hs.map (fun h => (h.toNat : Int)) = gs.map (fun g => ((g.toNat : Int) - 32) % 64) →
      (s.params.capQ < 3 * gs.length / 4 →
        exec .decrot s = .next (failedWith s 5#4 0 false)) ∧
      (3 * gs.length / 4 ≤ s.params.capQ →
        ∃ Q, exec .decrot s = .next (finished s Q) ∧ TextOfGroups hs Q))

/-! ### The Keyed Additive Cipher family -/

/-- `REPK` (42_additive.md R146, with R140): M and its flag are not looked at; the empty key fails
whatever `NARG` is; cell `i` of the result is cell `i mod |K|` of the key. -/
def Obligations.RepkRepeatsTheKey : Prop :=
  encode .repk = 0x00000030#32 ∧
  ∀ s : State, s.cfgok = true →
    (s.kperr = true → exec .repk s = .next (failedWith s 7#4 0 false)) ∧
    (s.kperr = false → s.k = [] → exec .repk s = .next (failedWith s 3#4 0 false)) ∧
    (s.kperr = false → s.k ≠ [] → s.params.capQ < s.narg.toNat →
      exec .repk s = .next (failedWith s 5#4 0 false)) ∧
    (s.kperr = false → s.k ≠ [] → s.narg.toNat ≤ s.params.capQ →
      ∃ Q, exec .repk s = .next (finished s Q) ∧ Q.length = s.narg.toNat ∧
        ∀ i, i < s.narg.toNat → Q[i]? = s.k[i % s.k.length]?)

/-- `ADDS` (42_additive.md R147, with R141): the errors in their order, and index sums modulo 64
against the repeated key. -/
def Obligations.AddsAddsTheKeyIndices : Prop :=
  encode .adds = 0x00000031#32 ∧
  ∀ s : State, s.cfgok = true → AlphabetOk s.alpha s.pad →
    (s.mperr = true ∨ s.kperr = true → exec .adds s = .next (failedWith s 7#4 0 false)) ∧
    (s.mperr = false → s.kperr = false → s.k = [] →
      exec .adds s = .next (failedWith s 3#4 0 false)) ∧
    (∀ j c, s.mperr = false → s.kperr = false → FirstBad s.k (· ∈ s.alpha) j c →
      exec .adds s = .next (failedWith s 2#4 j true)) ∧
    (∀ i c, s.mperr = false → s.kperr = false → s.k ≠ [] → (∀ d ∈ s.k, d ∈ s.alpha) →
      FirstBad s.m (· ∈ s.alpha) i c → exec .adds s = .next (failedWith s 2#4 i false)) ∧
    (∀ gs ks, s.mperr = false → s.kperr = false → s.k ≠ [] → Indices s.alpha s.m gs →
      Indices s.alpha s.k ks →
      (s.params.capQ < s.m.length → exec .adds s = .next (failedWith s 5#4 0 false)) ∧
      (s.m.length ≤ s.params.capQ →
        ∃ Q, exec .adds s = .next (finished s Q) ∧ Q.length = s.m.length ∧
          ∀ i a b, gs[i]? = some a → ks[i % s.k.length]? = some b →
            Q[i]? = s.alpha[(a.toNat + b.toNat) % 64]?))

/-- `SUBS` (42_additive.md R148, with R142): as `ADDS`, with the difference of the indices modulo 64
into 0..63 (00_scope.md R9). -/
def Obligations.SubsSubtractsTheKeyIndices : Prop :=
  encode .subs = 0x00000032#32 ∧
  ∀ s : State, s.cfgok = true → AlphabetOk s.alpha s.pad →
    (s.mperr = true ∨ s.kperr = true → exec .subs s = .next (failedWith s 7#4 0 false)) ∧
    (s.mperr = false → s.kperr = false → s.k = [] →
      exec .subs s = .next (failedWith s 3#4 0 false)) ∧
    (∀ j c, s.mperr = false → s.kperr = false → FirstBad s.k (· ∈ s.alpha) j c →
      exec .subs s = .next (failedWith s 2#4 j true)) ∧
    (∀ i c, s.mperr = false → s.kperr = false → s.k ≠ [] → (∀ d ∈ s.k, d ∈ s.alpha) →
      FirstBad s.m (· ∈ s.alpha) i c → exec .subs s = .next (failedWith s 2#4 i false)) ∧
    (∀ gs ks, s.mperr = false → s.kperr = false → s.k ≠ [] → Indices s.alpha s.m gs →
      Indices s.alpha s.k ks →
      (s.params.capQ < s.m.length → exec .subs s = .next (failedWith s 5#4 0 false)) ∧
      (s.m.length ≤ s.params.capQ →
        ∃ Q, exec .subs s = .next (finished s Q) ∧ Q.length = s.m.length ∧
          ∀ i a b, gs[i]? = some a → ks[i % s.k.length]? = some b →
            Q[i]? = s.alpha[(((a.toNat : Int) - b.toNat) % 64).toNat]?))

/-- `ENCADD` (42_additive.md R149, with R143, R144): the groups of the message's bits plus the groups
of the key's bits, repeated, modulo 64; no marker follows. -/
def Obligations.EncaddAddsTheEncodedKey : Prop :=
  encode .encadd = 0x00000033#32 ∧
  ∀ s : State, s.cfgok = true → AlphabetOk s.alpha s.pad →
    (s.mperr = true ∨ s.kperr = true → exec .encadd s = .next (failedWith s 7#4 0 false)) ∧
    (s.mperr = false → s.kperr = false → s.k = [] →
      exec .encadd s = .next (failedWith s 3#4 0 false)) ∧
    (s.mperr = false → s.kperr = false → s.k ≠ [] → s.params.capQ < symbolCount s.m.length →
      exec .encadd s = .next (failedWith s 5#4 0 false)) ∧
    (s.mperr = false → s.kperr = false → s.k ≠ [] → symbolCount s.m.length ≤ s.params.capQ →
      ∃ Q, exec .encadd s = .next (finished s Q) ∧ Q.length = symbolCount s.m.length ∧
        ∀ j a b, j < Q.length → GroupOf s.m j a →
          GroupOf s.k (j % symbolCount s.k.length) b →
          Q[j]? = s.alpha[(a.toNat + b.toNat) % 64]?)

/-- `DECADD` (42_additive.md R150, with R145): the message is not stripped, so a marker in it is
reported like any cell outside the Alphabet; the differences of the indices are decoded. -/
def Obligations.DecaddSubtractsTheEncodedKey : Prop :=
  encode .decadd = 0x00000034#32 ∧
  ∀ s : State, s.cfgok = true → AlphabetOk s.alpha s.pad →
    (s.mperr = true ∨ s.kperr = true → exec .decadd s = .next (failedWith s 7#4 0 false)) ∧
    (s.mperr = false → s.kperr = false → s.k = [] →
      exec .decadd s = .next (failedWith s 3#4 0 false)) ∧
    (∀ i c, s.mperr = false → s.kperr = false → s.k ≠ [] →
      FirstBad s.m (· ∈ s.alpha) i c → exec .decadd s = .next (failedWith s 2#4 i false)) ∧
    (∀ gs, s.mperr = false → s.kperr = false → s.k ≠ [] → Indices s.alpha s.m gs →
      (s.params.capQ < 3 * s.m.length / 4 →
        exec .decadd s = .next (failedWith s 5#4 0 false)) ∧
      (3 * s.m.length / 4 ≤ s.params.capQ →
        ∃ (Q : Cells) (hs : List Idx), exec .decadd s = .next (finished s Q) ∧ hs.length = gs.length ∧
          (∀ j a b h, gs[j]? = some a → GroupOf s.k (j % symbolCount s.k.length) b →
            hs[j]? = some h → (h.toNat : Int) = ((a.toNat : Int) - b.toNat) % 64) ∧
          TextOfGroups hs Q))

/-! ### The laws of the functions -/

/-- The codec's contract (40_bit_codec.md section 2): decoding an encoded text gives the text
back, for every text and every accepted Alphabet and marker. -/
def Obligations.DecodeInvertsEncode : Prop :=
  ∀ (A : Cells) (P : Byte) (T : Cells), AlphabetOk A P →
    decodeText A P (encodeText A P T) = .ok T

/-- The lengths and marker counts of the codec, and that decoding is not injective
(40_bit_codec.md section 2). -/
def Obligations.CodecLengths : Prop :=
  (∀ T, (textToBits T).length = 8 * T.length) ∧
  (∀ A P B, (bitsToSyms A B).length = (B.length + 5) / 6 ∧
    (bitsToEncoded A P B).length = 4 * (((B.length + 5) / 6 + 3) / 4)) ∧
  (∀ A P T, AlphabetOk A P →
    (encodeText A P T).length = paddedCount T.length ∧
    (strip P (encodeText A P T)).length = symbolCount T.length ∧
    (T.length % 3 = 0 → trailingRun P (encodeText A P T) = 0) ∧
    (T.length % 3 = 1 → trailingRun P (encodeText A P T) = 2) ∧
    (T.length % 3 = 2 → trailingRun P (encodeText A P T) = 1)) ∧
  (∀ A P E B, encodedToBits A P E = .ok B → B.length = 6 * (strip P E).length) ∧
  (∀ A P E T, decodeText A P E = .ok T → T.length = 3 * (strip P E).length / 4) ∧
  (∀ A P, AlphabetOk A P → ∃ E E' T, E ≠ E' ∧ decodeText A P E = .ok T ∧
    decodeText A P E' = .ok T ∧ strip P E ≠ strip P E')

/-- The regrouping as a packed operation, from characters to indices (40_bit_codec.md section 2):
three characters make four indices, one left over makes two and two markers, two left over make
three and one marker. -/
def Obligations.EncodingLanes : Prop :=
  ∀ (A : Cells) (P : Byte) (T : Cells), AlphabetOk A P →
    ∃ (gs : List Idx) (n : Nat), encodeText A P T = symbolsAt A gs 0 ++ List.replicate n P ∧
      (∀ i b0 b1 b2, T[3 * i]? = some b0 → T[3 * i + 1]? = some b1 → T[3 * i + 2]? = some b2 →
        gs[4 * i]?.map BitVec.toNat = some (b0.toNat / 4) ∧
        gs[4 * i + 1]?.map BitVec.toNat = some (b0.toNat % 4 * 16 + b1.toNat / 16) ∧
        gs[4 * i + 2]?.map BitVec.toNat = some (b1.toNat % 16 * 4 + b2.toNat / 64) ∧
        gs[4 * i + 3]?.map BitVec.toNat = some (b2.toNat % 64)) ∧
      (T.length % 3 = 0 → n = 0 ∧ 3 * gs.length = 4 * T.length) ∧
      (∀ i b0, T.length = 3 * i + 1 → T[3 * i]? = some b0 → n = 2 ∧ gs.length = 4 * i + 2 ∧
        gs[4 * i]?.map BitVec.toNat = some (b0.toNat / 4) ∧
        gs[4 * i + 1]?.map BitVec.toNat = some (b0.toNat % 4 * 16)) ∧
      (∀ i b0 b1, T.length = 3 * i + 2 → T[3 * i]? = some b0 → T[3 * i + 1]? = some b1 →
        n = 1 ∧ gs.length = 4 * i + 3 ∧
        gs[4 * i]?.map BitVec.toNat = some (b0.toNat / 4) ∧
        gs[4 * i + 1]?.map BitVec.toNat = some (b0.toNat % 4 * 16 + b1.toNat / 16) ∧
        gs[4 * i + 2]?.map BitVec.toNat = some (b1.toNat % 16 * 4))

/-- The regrouping as a packed operation, from indices to characters (40_bit_codec.md section 2):
four indices make three characters, one left over makes none, two make one, three make two; the bits
left over are dropped, whatever they are. -/
def Obligations.DecodingLanes : Prop :=
  ∀ (A : Cells) (P : Byte) (E S : Cells) (n : Nat) (gs : List Idx), AlphabetOk A P →
    TrailingMarkers P E S n → Indices A S gs →
    ∃ T, decodeText A P E = .ok T ∧ T.length = 3 * gs.length / 4 ∧
      ∀ i g0 g1, gs[4 * i]? = some g0 → gs[4 * i + 1]? = some g1 →
        T[3 * i]?.map BitVec.toNat = some (g0.toNat * 4 + g1.toNat / 16) ∧
        ∀ g2, gs[4 * i + 2]? = some g2 →
          T[3 * i + 1]?.map BitVec.toNat = some (g1.toNat % 16 * 16 + g2.toNat / 4) ∧
          ∀ g3, gs[4 * i + 3]? = some g3 →
            T[3 * i + 2]?.map BitVec.toNat = some (g2.toNat % 4 * 64 + g3.toNat)

/-- The rotation is its own inverse and moves every symbol (41_rotation.md section 2). -/
def Obligations.RotationIsItsOwnInverse : Prop :=
  ∀ (A : Cells) (P : Byte) (E R : Cells), AlphabetOk A P → rot A P E = .ok R →
    rot A P R = .ok E ∧
    ∀ (i : Nat) (c : Byte), E[i]? = some c → c ∈ A → ∃ d, R[i]? = some d ∧ d ∈ A ∧ d ≠ c

/-- The shape of what the rotation makes (41_rotation.md section 2): it commutes with padding and
with stripping, it keeps the number of trailing markers, and decryption ignores trailing markers. -/
def Obligations.RotationCommutesWithPadding : Prop :=
  ∀ (A : Cells) (P : Byte) (E R : Cells), AlphabetOk A P → rot A P E = .ok R →
    rot A P (pad4 P E) = .ok (pad4 P R) ∧ rot A P (strip P E) = .ok (strip P R) ∧
    trailingRun P R = trailingRun P E ∧
    decryptRotation A P E = decryptRotation A P (strip P E) ∧
    decryptRotation A P E = decryptRotation A P (pad4 P (strip P E))

/-- The rotation cipher round trip on the machine (41_rotation.md section 2): with room in the
buffers, `ENCROT`, `QTOM`, `DECROT` leave the message that was there at first in Q, with no error, for
every text. -/
def Obligations.RotationRoundTripOnTheMachine : Prop :=
  ∀ s : State, s.cfgok = true → AlphabetOk s.alpha s.pad → s.mperr = false →
    paddedCount s.m.length ≤ s.params.capQ → paddedCount s.m.length ≤ s.params.capM →
    ∃ t u v, exec .encrot s = .next t ∧ exec .qtom t = .next u ∧ exec .decrot u = .next v ∧
      v.q = s.m ∧ v.err = 0#4

/-- Adding and subtracting a key are inverse to each other on symbols (42_additive.md section 2). -/
def Obligations.AddAndSubtractAreInverse : Prop :=
  ∀ (A : Cells) (P : Byte) (M S R : Cells), AlphabetOk A P →
    (addsyms A M S = .ok R → subsyms A R S = .ok M) ∧
    (subsyms A M S = .ok R → addsyms A R S = .ok M)

/-- A key whose symbols all have index 0 leaves the message as it is, and the lengths of the two
keyed transforms (42_additive.md section 2). -/
def Obligations.AdditiveIdentityAndLengths : Prop :=
  ∀ (A : Cells) (P : Byte), AlphabetOk A P →
    (∀ M S, S ≠ [] → (∀ c ∈ M, c ∈ A) → (∀ c ∈ S, A[0]? = some c) → addsyms A M S = .ok M) ∧
    (∀ T Kt R, encryptAdditive A P T Kt = .ok R → R.length = symbolCount T.length) ∧
    (∀ C Kt R, decryptAdditive A P C Kt = .ok R → R.length = 3 * C.length / 4)

/-- The keyed additive round trip on the machine (42_additive.md section 2): with a key and
room in the buffers, `ENCADD`, `QTOM`, `DECADD` leave the message that was there at first in Q, with
no error, for every text and every non-empty key. -/
def Obligations.AdditiveRoundTripOnTheMachine : Prop :=
  ∀ s : State, s.cfgok = true → AlphabetOk s.alpha s.pad → s.mperr = false → s.kperr = false →
    s.k ≠ [] → symbolCount s.m.length ≤ s.params.capQ → symbolCount s.m.length ≤ s.params.capM →
    ∃ t u v, exec .encadd s = .next t ∧ exec .qtom t = .next u ∧ exec .decadd u = .next v ∧
      v.q = s.m ∧ v.err = 0#4

/-- The pipeline run stage by stage equals the composite command (30_encoding.md section 2,
43_buffer_control.md R163): `T2B`, `QTOM`, `B2E` give the result of `ENC`; `ENC`, `QTOM`, `ROTS` give
that of `ENCROT`. -/
def Obligations.StagesEqualTheComposite : Prop :=
  ∀ s : State, s.cfgok = true → AlphabetOk s.alpha s.pad → s.mperr = false →
    8 * s.m.length ≤ s.params.capQ → 8 * s.m.length ≤ s.params.capM →
    paddedCount s.m.length ≤ s.params.capQ → paddedCount s.m.length ≤ s.params.capM →
    (∃ t u v w, exec .t2b s = .next t ∧ exec .qtom t = .next u ∧ exec .b2e u = .next v ∧
      exec .enc s = .next w ∧ v.q = w.q ∧ v.err = 0#4 ∧ w.err = 0#4) ∧
    (∃ t u v w, exec .enc s = .next t ∧ exec .qtom t = .next u ∧ exec .rots u = .next v ∧
      exec .encrot s = .next w ∧ v.q = w.q ∧ v.err = 0#4 ∧ w.err = 0#4)

/-- The two ciphers differ on padding (42_additive.md section 2): what `ENCADD` leaves in Q, copied to
M and padded by `PAD4`, is stripped back by `STRIP`; while it carries a marker `DECADD` rejects it
with `INVSYM` at the first marker. -/
def Obligations.RepaddedAdditiveCiphertext : Prop :=
  ∀ s : State, s.cfgok = true → AlphabetOk s.alpha s.pad → s.mperr = false → s.kperr = false →
    s.k ≠ [] → paddedCount s.m.length ≤ s.params.capQ → paddedCount s.m.length ≤ s.params.capM →
    ∃ t u v w x, exec .encadd s = .next t ∧ exec .qtom t = .next u ∧ exec .pad4 u = .next v ∧
      exec .qtom v = .next w ∧ exec .strip w = .next x ∧ x.q = t.q ∧
      v.q.length = paddedCount s.m.length ∧
      (s.m.length % 3 ≠ 0 →
        exec .decadd w = .next (failedWith w 2#4 (symbolCount s.m.length) false))
end

