-- ==== Sys2Proof/Laws/Scan.lean ====
section
/-! SUPPORT. What the one scan over a buffer answers (spec/00_scope.md R11). -/

namespace Sys2Proof.Machine

variable {β : Type} {f : Nat → Byte → Except FnError β}

@[simp] theorem scan_nil (i : Nat) : scan f i [] = .ok [] := rfl

theorem scan_cons_ok {i : Nat} {c : Byte} {cs : Cells} {b : β} (h : f i c = .ok b) :
    scan f i (c :: cs) =
      match scan f (i + 1) cs with
      | .error e => .error e
      | .ok bs => .ok (b :: bs) := by
  cases hs : scan f (i + 1) cs <;> simp only [scan, h, hs]

theorem scan_cons_error {i : Nat} {c : Byte} {cs : Cells} {e : FnError} (h : f i c = .error e) :
    scan f i (c :: cs) = .error e := by
  simp [scan, h]

/-- A scan answers `r` exactly when every cell answers the element of `r` at its place. -/
theorem scan_eq_ok_iff (S : Cells) (i : Nat) (r : List β) :
    scan f i S = .ok r ↔
      r.length = S.length ∧ ∀ j c, S[j]? = some c → ∃ b, r[j]? = some b ∧ f (i + j) c = .ok b := by
  induction S generalizing i r with
  | nil => cases r <;> simp
  | cons c cs ih =>
    cases hf : f i c with
    | error e =>
      simp only [scan_cons_error hf, reduceCtorEq, false_iff, not_and]
      intro _ h
      obtain ⟨b, -, hb⟩ := h 0 c (by simp)
      simp [hf] at hb
    | ok b =>
      rw [scan_cons_ok hf]
      cases hs : scan f (i + 1) cs with
      | error e =>
        simp only [reduceCtorEq, false_iff, not_and]
        intro hl h
        cases r with
        | nil => simp at hl
        | cons r0 rs =>
          have := (ih (i + 1) rs).mpr ⟨by simpa using hl, fun j c hj => by
            obtain ⟨b', h1, h2⟩ := h (j + 1) c (by simpa using hj)
            exact ⟨b', by simpa using h1, by rwa [Nat.add_right_comm, Nat.add_assoc]⟩⟩
          simp [hs] at this
      | ok bs =>
        constructor
        · rintro h
          obtain rfl : b :: bs = r := by simpa using h
          obtain ⟨h1, h2⟩ := (ih (i + 1) bs).mp hs
          refine ⟨by simp [h1], fun j d hj => ?_⟩
          cases j with
          | zero => exact ⟨b, by simp, by simpa [← Option.some_inj.mp (by simpa using hj)] using hf⟩
          | succ j =>
            obtain ⟨b', h3, h4⟩ := h2 j d (by simpa using hj)
            exact ⟨b', by simpa using h3, by rwa [Nat.add_right_comm, Nat.add_assoc] at h4⟩
        · rintro ⟨hl, h⟩
          cases r with
          | nil => simp at hl
          | cons r0 rs =>
            obtain ⟨b', h1, h2⟩ := h 0 c (by simp)
            have hr : scan f (i + 1) cs = .ok rs := (ih (i + 1) rs).mpr
              ⟨by simpa using hl, fun j d hj => by
                obtain ⟨b', h1, h2⟩ := h (j + 1) d (by simpa using hj)
                exact ⟨b', by simpa using h1, by rwa [Nat.add_right_comm, Nat.add_assoc]⟩⟩
            rw [hs] at hr
            simp only [Nat.add_zero, hf, Except.ok.injEq] at h2
            simp only [List.getElem?_cons_zero, Option.some.injEq] at h1
            simp only [Except.ok.injEq] at hr
            rw [hr, h1, h2]

/-- A scan raises `e` exactly when some cell raises it and no cell before it raises. -/
theorem scan_eq_error_iff (S : Cells) (i : Nat) (e : FnError) :
    scan f i S = .error e ↔
      ∃ j c, S[j]? = some c ∧ f (i + j) c = .error e ∧
        ∀ j' c', j' < j → S[j']? = some c' → ∃ b, f (i + j') c' = .ok b := by
  induction S generalizing i with
  | nil => simp
  | cons c cs ih =>
    cases hf : f i c with
    | error e' =>
      rw [scan_cons_error hf]
      constructor
      · intro h
        exact ⟨0, c, by simp, by simpa [hf] using h, by simp⟩
      · rintro ⟨j, d, h1, h2, h3⟩
        cases j with
        | zero =>
          obtain rfl : c = d := by simpa using h1
          simpa [hf] using h2
        | succ j =>
          obtain ⟨b, hb⟩ := h3 0 c (by omega) (by simp)
          simp [hf] at hb
    | ok b =>
      rw [scan_cons_ok hf]
      have key : (match scan f (i + 1) cs with
          | .error e => .error e
          | .ok bs => .ok (b :: bs)) = Except.error e ↔ scan f (i + 1) cs = .error e := by
        cases scan f (i + 1) cs <;> simp
      rw [key, ih]
      constructor
      · rintro ⟨j, d, h1, h2, h3⟩
        refine ⟨j + 1, d, by simpa using h1, by rwa [Nat.add_right_comm, Nat.add_assoc] at h2, ?_⟩
        intro j' c' hj hc
        cases j' with
        | zero => exact ⟨b, by simpa [← Option.some_inj.mp (by simpa using hc)] using hf⟩
        | succ j' =>
          have := h3 j' c' (by omega) (by simpa using hc)
          rwa [Nat.add_right_comm, Nat.add_assoc] at this
      · rintro ⟨j, d, h1, h2, h3⟩
        cases j with
        | zero =>
          obtain rfl : c = d := by simpa using h1
          simp [hf] at h2
        | succ j =>
          refine ⟨j, d, by simpa using h1, by rwa [Nat.add_right_comm, Nat.add_assoc], ?_⟩
          intro j' c' hj hc
          have := h3 (j' + 1) c' (by omega) (by simpa using hc)
          rwa [Nat.add_right_comm, Nat.add_assoc]

/-- A scan that succeeds keeps the number of cells. -/
theorem scan_length {S : Cells} {i : Nat} {r : List β} (h : scan f i S = .ok r) :
    r.length = S.length := ((scan_eq_ok_iff S i r).mp h).1

end Sys2Proof.Machine
end

