-- ==== Sys2Proof/Laws/Alphabet.lean ====
section
/-! SUPPORT. `sym` and `idx` are inverse bijections on an accepted Alphabet (spec/00_scope.md R10),
and the configuration load yields one (70_reset_and_hazards.md R192). -/

namespace Sys2Proof.Machine

variable {A : Cells} {P : Byte}

theorem sym_eq_getElem (hl : A.length = 64) (g : Idx) :
    A[g.toNat]? = some (sym A g) := by
  have h : g.toNat < A.length := by rw [hl]; exact g.isLt
  simp [sym, h]

theorem sym_mem (hl : A.length = 64) (g : Idx) : sym A g ∈ A :=
  List.mem_of_getElem? (sym_eq_getElem hl g)

theorem sym_ne_pad (h : AlphabetOk A P) (g : Idx) : sym A g ≠ P := fun he =>
  h.2.2 (he ▸ sym_mem h.1 g)

theorem idx_eq_none_iff {c : Byte} : idx A c = none ↔ c ∉ A := by
  simp [idx]

/-- `idx` answers the position of the symbol (R10). -/
theorem idx_eq_some_iff (hl : A.length = 64) (hn : A.Nodup) {c : Byte} {g : Idx} :
    idx A c = some g ↔ A[g.toNat]? = some c := by
  constructor
  · intro h
    by_cases hc : c ∈ A
    · have hlt : A.idxOf c < 64 := hl ▸ List.idxOf_lt_length_of_mem hc
      obtain rfl : BitVec.ofNat 6 (A.idxOf c) = g := by simpa [idx, hc] using h
      have h64 : (BitVec.ofNat 6 (A.idxOf c)).toNat = A.idxOf c := by
        simpa using Nat.mod_eq_of_lt hlt
      rw [h64, List.getElem?_eq_getElem (List.idxOf_lt_length_of_mem hc), List.getElem_idxOf]
    · simp [idx, hc] at h
  · intro h
    obtain ⟨hg, rfl⟩ := List.getElem?_eq_some_iff.mp h
    have hc : A[g.toNat] ∈ A := List.getElem_mem hg
    simp [idx, hc, hn.idxOf_getElem]

theorem idx_sym (hl : A.length = 64) (hn : A.Nodup) (g : Idx) : idx A (sym A g) = some g :=
  (idx_eq_some_iff hl hn).mpr (sym_eq_getElem hl g)

theorem sym_of_idx (hl : A.length = 64) (hn : A.Nodup) {c : Byte} {g : Idx}
    (h : idx A c = some g) : sym A g = c :=
  Option.some_inj.mp ((sym_eq_getElem hl g).symm.trans ((idx_eq_some_iff hl hn).mp h))

theorem sym_injective (hl : A.length = 64) (hn : A.Nodup) {g g' : Idx}
    (h : sym A g = sym A g') : g = g' :=
  Option.some_inj.mp ((idx_sym hl hn g).symm.trans (h ▸ idx_sym hl hn g'))

theorem lookup_eq_ok_iff {inK : Bool} {i : Nat} {c : Byte} {g : Idx} :
    lookup A inK i c = .ok g ↔ idx A c = some g := by
  unfold lookup
  cases idx A c <;> simp

theorem lookup_eq_error_iff {inK : Bool} {i : Nat} {c : Byte} {e : FnError} :
    lookup A inK i c = .error e ↔ c ∉ A ∧ e = .invsym i inK := by
  rw [← idx_eq_none_iff]
  unfold lookup
  cases idx A c <;> simp [eq_comm]

@[simp] theorem lookup_sym (hl : A.length = 64) (hn : A.Nodup) (inK : Bool) (i : Nat) (g : Idx) :
    lookup A inK i (sym A g) = .ok g :=
  lookup_eq_ok_iff.mpr (idx_sym hl hn g)

/-- Looking up a sequence of symbols gives their indices. -/
theorem scan_lookup_map_sym (hl : A.length = 64) (hn : A.Nodup) (inK : Bool) (i : Nat)
    (gs : List Idx) : scan (lookup A inK) i (gs.map (sym A)) = .ok gs := by
  rw [scan_eq_ok_iff]
  refine ⟨by simp, fun j c hj => ?_⟩
  rw [List.getElem?_map, Option.map_eq_some_iff] at hj
  obtain ⟨g, hg, rfl⟩ := hj
  exact ⟨g, hg, lookup_sym hl hn inK _ g⟩

/-- A sequence of symbols is the sequence of its indices, mapped back. -/
theorem eq_map_sym_of_scan (hl : A.length = 64) (hn : A.Nodup) {inK : Bool} {i : Nat} {S : Cells}
    {gs : List Idx} (h : scan (lookup A inK) i S = .ok gs) : S = gs.map (sym A) := by
  obtain ⟨hlen, hcell⟩ := (scan_eq_ok_iff S i gs).mp h
  apply List.ext_getElem?
  intro j
  rw [List.getElem?_map]
  cases hS : S[j]? with
  | none =>
    have : S.length ≤ j := List.getElem?_eq_none_iff.mp hS
    rw [List.getElem?_eq_none (by omega)]
    rfl
  | some c =>
    obtain ⟨g, hg, hf⟩ := hcell j c hS
    rw [hg, Option.map_some, sym_of_idx hl hn (lookup_eq_ok_iff.mp hf)]

/-- A scan of lookups succeeds exactly when every cell is a symbol. -/
theorem scan_lookup_ok_of_mem {inK : Bool} {i : Nat} {S : Cells} (h : ∀ c ∈ S, c ∈ A) :
    ∃ gs, scan (lookup A inK) i S = .ok gs := by
  cases hs : scan (lookup A inK) i S with
  | ok gs => exact ⟨gs, rfl⟩
  | error e =>
    obtain ⟨j, c, hj, he, -⟩ := (scan_eq_error_iff S i e).mp hs
    exact absurd (h c (List.mem_of_getElem? hj)) (lookup_eq_error_iff.mp he).1

/-- What a failing scan of lookups raises: `INVSYM` at the least cell that is no symbol. -/
theorem scan_lookup_error_iff {inK : Bool} {S : Cells} {e : FnError} :
    scan (lookup A inK) 0 S = .error e ↔
      ∃ j c, S[j]? = some c ∧ c ∉ A ∧ e = .invsym j inK ∧
        ∀ j' c', j' < j → S[j']? = some c' → c' ∈ A := by
  rw [scan_eq_error_iff]
  constructor
  · rintro ⟨j, c, h1, h2, h3⟩
    obtain ⟨h4, h5⟩ := lookup_eq_error_iff.mp h2
    refine ⟨j, c, h1, h4, by simpa using h5, fun j' c' hj hc => ?_⟩
    obtain ⟨b, hb⟩ := h3 j' c' hj hc
    by_contra hn
    rw [(lookup_eq_error_iff (e := .invsym (0 + j') inK)).mpr ⟨hn, rfl⟩] at hb
    simp at hb
  · rintro ⟨j, c, h1, h2, h3, h4⟩
    refine ⟨j, c, h1, lookup_eq_error_iff.mpr ⟨h2, by simpa using h3⟩, fun j' c' hj hc => ?_⟩
    cases hk : lookup A inK (0 + j') c' with
    | ok b => exact ⟨b, rfl⟩
    | error e' => exact absurd (h4 j' c' hj hc) (lookup_eq_error_iff.mp hk).1

/-- What the configuration load accepts is an Alphabet of 64 distinct symbols without the marker
(70_reset_and_hazards.md R192). -/
theorem loadConfig_sound {p : Params} {A : Cells} {P : Byte} (h : loadConfig p = some (A, P)) :
    AlphabetOk A P := by
  unfold loadConfig at h
  split at h
  · next hc =>
    obtain ⟨rfl, rfl⟩ : repairSyms p.cfgSyms = A ∧ p.cfgPad = P := by simpa using h
    simpa [configAccepted, AlphabetOk, and_assoc] using hc
  · cases h

end Sys2Proof.Machine
end

