-- ==== Sys2Proof/Laws/State.lean ====
section
/-! SUPPORT. One lemma per field per named update of the state, true by unfolding the record. -/

namespace Sys2Proof.Machine

/-! ### report: the error registers (10_state.md R35) -/

@[simp] theorem State.report_cfgok (s : State) (c : ErrCode) (i : Nat) (b : Bool) :
    (s.report c i b).cfgok = s.cfgok := rfl
@[simp] theorem State.report_alpha (s : State) (c : ErrCode) (i : Nat) (b : Bool) :
    (s.report c i b).alpha = s.alpha := rfl
@[simp] theorem State.report_pad (s : State) (c : ErrCode) (i : Nat) (b : Bool) :
    (s.report c i b).pad = s.pad := rfl
@[simp] theorem State.report_m (s : State) (c : ErrCode) (i : Nat) (b : Bool) :
    (s.report c i b).m = s.m := rfl
@[simp] theorem State.report_k (s : State) (c : ErrCode) (i : Nat) (b : Bool) :
    (s.report c i b).k = s.k := rfl
@[simp] theorem State.report_q (s : State) (c : ErrCode) (i : Nat) (b : Bool) :
    (s.report c i b).q = s.q := rfl
@[simp] theorem State.report_narg (s : State) (c : ErrCode) (i : Nat) (b : Bool) :
    (s.report c i b).narg = s.narg := rfl
@[simp] theorem State.report_qptr (s : State) (c : ErrCode) (i : Nat) (b : Bool) :
    (s.report c i b).qptr = s.qptr := rfl
@[simp] theorem State.report_erridx (s : State) (c : ErrCode) (i : Nat) (b : Bool) :
    (s.report c i b).erridx = BitVec.ofNat 32 i := rfl
@[simp] theorem State.report_err (s : State) (c : ErrCode) (i : Nat) (b : Bool) :
    (s.report c i b).err = errNumber c := rfl
@[simp] theorem State.report_errk (s : State) (c : ErrCode) (i : Nat) (b : Bool) :
    (s.report c i b).errk = b := rfl
@[simp] theorem State.report_mperr (s : State) (c : ErrCode) (i : Nat) (b : Bool) :
    (s.report c i b).mperr = s.mperr := rfl
@[simp] theorem State.report_kperr (s : State) (c : ErrCode) (i : Nat) (b : Bool) :
    (s.report c i b).kperr = s.kperr := rfl
@[simp] theorem State.report_params (s : State) (c : ErrCode) (i : Nat) (b : Bool) :
    (s.report c i b).params = s.params := rfl
@[simp] theorem State.report_inbox (s : State) (c : ErrCode) (i : Nat) (b : Bool) :
    (s.report c i b).inbox = s.inbox := rfl
@[simp] theorem State.report_reply (s : State) (c : ErrCode) (i : Nat) (b : Bool) :
    (s.report c i b).reply = s.reply := rfl

/-! ### succeed: the error registers of a success -/

@[simp] theorem State.succeed_cfgok (s : State) : (s.succeed).cfgok = s.cfgok := rfl
@[simp] theorem State.succeed_alpha (s : State) : (s.succeed).alpha = s.alpha := rfl
@[simp] theorem State.succeed_pad (s : State) : (s.succeed).pad = s.pad := rfl
@[simp] theorem State.succeed_m (s : State) : (s.succeed).m = s.m := rfl
@[simp] theorem State.succeed_k (s : State) : (s.succeed).k = s.k := rfl
@[simp] theorem State.succeed_q (s : State) : (s.succeed).q = s.q := rfl
@[simp] theorem State.succeed_narg (s : State) : (s.succeed).narg = s.narg := rfl
@[simp] theorem State.succeed_qptr (s : State) : (s.succeed).qptr = s.qptr := rfl
@[simp] theorem State.succeed_erridx (s : State) : (s.succeed).erridx = 0#32 := rfl
@[simp] theorem State.succeed_err (s : State) : (s.succeed).err = 0#4 := rfl
@[simp] theorem State.succeed_errk (s : State) : (s.succeed).errk = false := rfl
@[simp] theorem State.succeed_mperr (s : State) : (s.succeed).mperr = s.mperr := rfl
@[simp] theorem State.succeed_kperr (s : State) : (s.succeed).kperr = s.kperr := rfl
@[simp] theorem State.succeed_params (s : State) : (s.succeed).params = s.params := rfl
@[simp] theorem State.succeed_inbox (s : State) : (s.succeed).inbox = s.inbox := rfl
@[simp] theorem State.succeed_reply (s : State) : (s.succeed).reply = s.reply := rfl

/-! ### setResult: Q and `QPTR` (30_encoding.md R78) -/

@[simp] theorem State.setResult_cfgok (s : State) (r : Cells) :
    (s.setResult r).cfgok = s.cfgok := rfl
@[simp] theorem State.setResult_alpha (s : State) (r : Cells) :
    (s.setResult r).alpha = s.alpha := rfl
@[simp] theorem State.setResult_pad (s : State) (r : Cells) : (s.setResult r).pad = s.pad := rfl
@[simp] theorem State.setResult_m (s : State) (r : Cells) : (s.setResult r).m = s.m := rfl
@[simp] theorem State.setResult_k (s : State) (r : Cells) : (s.setResult r).k = s.k := rfl
@[simp] theorem State.setResult_q (s : State) (r : Cells) : (s.setResult r).q = r := rfl
@[simp] theorem State.setResult_narg (s : State) (r : Cells) : (s.setResult r).narg = s.narg := rfl
@[simp] theorem State.setResult_qptr (s : State) (r : Cells) : (s.setResult r).qptr = 0#32 := rfl
@[simp] theorem State.setResult_erridx (s : State) (r : Cells) :
    (s.setResult r).erridx = s.erridx := rfl
@[simp] theorem State.setResult_err (s : State) (r : Cells) : (s.setResult r).err = s.err := rfl
@[simp] theorem State.setResult_errk (s : State) (r : Cells) : (s.setResult r).errk = s.errk := rfl
@[simp] theorem State.setResult_mperr (s : State) (r : Cells) :
    (s.setResult r).mperr = s.mperr := rfl
@[simp] theorem State.setResult_kperr (s : State) (r : Cells) :
    (s.setResult r).kperr = s.kperr := rfl
@[simp] theorem State.setResult_params (s : State) (r : Cells) :
    (s.setResult r).params = s.params := rfl
@[simp] theorem State.setResult_inbox (s : State) (r : Cells) :
    (s.setResult r).inbox = s.inbox := rfl
@[simp] theorem State.setResult_reply (s : State) (r : Cells) :
    (s.setResult r).reply = s.reply := rfl

/-! ### fail: taking an error (30_encoding.md R78) -/

@[simp] theorem State.fail_cfgok (s : State) (c : ErrCode) (i : Nat) (b : Bool) :
    (s.fail c i b).cfgok = s.cfgok := rfl
@[simp] theorem State.fail_alpha (s : State) (c : ErrCode) (i : Nat) (b : Bool) :
    (s.fail c i b).alpha = s.alpha := rfl
@[simp] theorem State.fail_pad (s : State) (c : ErrCode) (i : Nat) (b : Bool) :
    (s.fail c i b).pad = s.pad := rfl
@[simp] theorem State.fail_m (s : State) (c : ErrCode) (i : Nat) (b : Bool) :
    (s.fail c i b).m = s.m := rfl
@[simp] theorem State.fail_k (s : State) (c : ErrCode) (i : Nat) (b : Bool) :
    (s.fail c i b).k = s.k := rfl
@[simp] theorem State.fail_q (s : State) (c : ErrCode) (i : Nat) (b : Bool) :
    (s.fail c i b).q = [] := rfl
@[simp] theorem State.fail_narg (s : State) (c : ErrCode) (i : Nat) (b : Bool) :
    (s.fail c i b).narg = s.narg := rfl
@[simp] theorem State.fail_qptr (s : State) (c : ErrCode) (i : Nat) (b : Bool) :
    (s.fail c i b).qptr = 0#32 := rfl
@[simp] theorem State.fail_erridx (s : State) (c : ErrCode) (i : Nat) (b : Bool) :
    (s.fail c i b).erridx = BitVec.ofNat 32 i := rfl
@[simp] theorem State.fail_err (s : State) (c : ErrCode) (i : Nat) (b : Bool) :
    (s.fail c i b).err = errNumber c := rfl
@[simp] theorem State.fail_errk (s : State) (c : ErrCode) (i : Nat) (b : Bool) :
    (s.fail c i b).errk = b := rfl
@[simp] theorem State.fail_mperr (s : State) (c : ErrCode) (i : Nat) (b : Bool) :
    (s.fail c i b).mperr = s.mperr := rfl
@[simp] theorem State.fail_kperr (s : State) (c : ErrCode) (i : Nat) (b : Bool) :
    (s.fail c i b).kperr = s.kperr := rfl
@[simp] theorem State.fail_params (s : State) (c : ErrCode) (i : Nat) (b : Bool) :
    (s.fail c i b).params = s.params := rfl
@[simp] theorem State.fail_inbox (s : State) (c : ErrCode) (i : Nat) (b : Bool) :
    (s.fail c i b).inbox = s.inbox := rfl
@[simp] theorem State.fail_reply (s : State) (c : ErrCode) (i : Nat) (b : Bool) :
    (s.fail c i b).reply = s.reply := rfl

/-! ### commit: committing a result (30_encoding.md R78) -/

@[simp] theorem State.commit_cfgok (s : State) (r : Cells) : (s.commit r).cfgok = s.cfgok := rfl
@[simp] theorem State.commit_alpha (s : State) (r : Cells) : (s.commit r).alpha = s.alpha := rfl
@[simp] theorem State.commit_pad (s : State) (r : Cells) : (s.commit r).pad = s.pad := rfl
@[simp] theorem State.commit_m (s : State) (r : Cells) : (s.commit r).m = s.m := rfl
@[simp] theorem State.commit_k (s : State) (r : Cells) : (s.commit r).k = s.k := rfl
@[simp] theorem State.commit_q (s : State) (r : Cells) : (s.commit r).q = r := rfl
@[simp] theorem State.commit_narg (s : State) (r : Cells) : (s.commit r).narg = s.narg := rfl
@[simp] theorem State.commit_qptr (s : State) (r : Cells) : (s.commit r).qptr = 0#32 := rfl
@[simp] theorem State.commit_erridx (s : State) (r : Cells) : (s.commit r).erridx = 0#32 := rfl
@[simp] theorem State.commit_err (s : State) (r : Cells) : (s.commit r).err = 0#4 := rfl
@[simp] theorem State.commit_errk (s : State) (r : Cells) : (s.commit r).errk = false := rfl
@[simp] theorem State.commit_mperr (s : State) (r : Cells) : (s.commit r).mperr = s.mperr := rfl
@[simp] theorem State.commit_kperr (s : State) (r : Cells) : (s.commit r).kperr = s.kperr := rfl
@[simp] theorem State.commit_params (s : State) (r : Cells) : (s.commit r).params = s.params := rfl
@[simp] theorem State.commit_inbox (s : State) (r : Cells) : (s.commit r).inbox = s.inbox := rfl
@[simp] theorem State.commit_reply (s : State) (r : Cells) : (s.commit r).reply = s.reply := rfl

/-! ### loadM: replacing M -/

@[simp] theorem State.loadM_cfgok (s : State) (c : Cells) : (s.loadM c).cfgok = s.cfgok := rfl
@[simp] theorem State.loadM_alpha (s : State) (c : Cells) : (s.loadM c).alpha = s.alpha := rfl
@[simp] theorem State.loadM_pad (s : State) (c : Cells) : (s.loadM c).pad = s.pad := rfl
@[simp] theorem State.loadM_m (s : State) (c : Cells) : (s.loadM c).m = c := rfl
@[simp] theorem State.loadM_k (s : State) (c : Cells) : (s.loadM c).k = s.k := rfl
@[simp] theorem State.loadM_q (s : State) (c : Cells) : (s.loadM c).q = s.q := rfl
@[simp] theorem State.loadM_narg (s : State) (c : Cells) : (s.loadM c).narg = s.narg := rfl
@[simp] theorem State.loadM_qptr (s : State) (c : Cells) : (s.loadM c).qptr = s.qptr := rfl
@[simp] theorem State.loadM_erridx (s : State) (c : Cells) : (s.loadM c).erridx = s.erridx := rfl
@[simp] theorem State.loadM_err (s : State) (c : Cells) : (s.loadM c).err = s.err := rfl
@[simp] theorem State.loadM_errk (s : State) (c : Cells) : (s.loadM c).errk = s.errk := rfl
@[simp] theorem State.loadM_mperr (s : State) (c : Cells) : (s.loadM c).mperr = false := rfl
@[simp] theorem State.loadM_kperr (s : State) (c : Cells) : (s.loadM c).kperr = s.kperr := rfl
@[simp] theorem State.loadM_params (s : State) (c : Cells) : (s.loadM c).params = s.params := rfl
@[simp] theorem State.loadM_inbox (s : State) (c : Cells) : (s.loadM c).inbox = s.inbox := rfl
@[simp] theorem State.loadM_reply (s : State) (c : Cells) : (s.loadM c).reply = s.reply := rfl

/-! ### loadK: replacing K -/

@[simp] theorem State.loadK_cfgok (s : State) (c : Cells) : (s.loadK c).cfgok = s.cfgok := rfl
@[simp] theorem State.loadK_alpha (s : State) (c : Cells) : (s.loadK c).alpha = s.alpha := rfl
@[simp] theorem State.loadK_pad (s : State) (c : Cells) : (s.loadK c).pad = s.pad := rfl
@[simp] theorem State.loadK_m (s : State) (c : Cells) : (s.loadK c).m = s.m := rfl
@[simp] theorem State.loadK_k (s : State) (c : Cells) : (s.loadK c).k = c := rfl
@[simp] theorem State.loadK_q (s : State) (c : Cells) : (s.loadK c).q = s.q := rfl
@[simp] theorem State.loadK_narg (s : State) (c : Cells) : (s.loadK c).narg = s.narg := rfl
@[simp] theorem State.loadK_qptr (s : State) (c : Cells) : (s.loadK c).qptr = s.qptr := rfl
@[simp] theorem State.loadK_erridx (s : State) (c : Cells) : (s.loadK c).erridx = s.erridx := rfl
@[simp] theorem State.loadK_err (s : State) (c : Cells) : (s.loadK c).err = s.err := rfl
@[simp] theorem State.loadK_errk (s : State) (c : Cells) : (s.loadK c).errk = s.errk := rfl
@[simp] theorem State.loadK_mperr (s : State) (c : Cells) : (s.loadK c).mperr = s.mperr := rfl
@[simp] theorem State.loadK_kperr (s : State) (c : Cells) : (s.loadK c).kperr = false := rfl
@[simp] theorem State.loadK_params (s : State) (c : Cells) : (s.loadK c).params = s.params := rfl
@[simp] theorem State.loadK_inbox (s : State) (c : Cells) : (s.loadK c).inbox = s.inbox := rfl
@[simp] theorem State.loadK_reply (s : State) (c : Cells) : (s.loadK c).reply = s.reply := rfl

/-! ### setNarg: `NARG` (10_state.md R28) -/

@[simp] theorem State.setNarg_cfgok (s : State) (v : Word) : (s.setNarg v).cfgok = s.cfgok := rfl
@[simp] theorem State.setNarg_alpha (s : State) (v : Word) : (s.setNarg v).alpha = s.alpha := rfl
@[simp] theorem State.setNarg_pad (s : State) (v : Word) : (s.setNarg v).pad = s.pad := rfl
@[simp] theorem State.setNarg_m (s : State) (v : Word) : (s.setNarg v).m = s.m := rfl
@[simp] theorem State.setNarg_k (s : State) (v : Word) : (s.setNarg v).k = s.k := rfl
@[simp] theorem State.setNarg_q (s : State) (v : Word) : (s.setNarg v).q = s.q := rfl
@[simp] theorem State.setNarg_narg (s : State) (v : Word) : (s.setNarg v).narg = v := rfl
@[simp] theorem State.setNarg_qptr (s : State) (v : Word) : (s.setNarg v).qptr = s.qptr := rfl
@[simp] theorem State.setNarg_erridx (s : State) (v : Word) : (s.setNarg v).erridx = s.erridx := rfl
@[simp] theorem State.setNarg_err (s : State) (v : Word) : (s.setNarg v).err = s.err := rfl
@[simp] theorem State.setNarg_errk (s : State) (v : Word) : (s.setNarg v).errk = s.errk := rfl
@[simp] theorem State.setNarg_mperr (s : State) (v : Word) : (s.setNarg v).mperr = s.mperr := rfl
@[simp] theorem State.setNarg_kperr (s : State) (v : Word) : (s.setNarg v).kperr = s.kperr := rfl
@[simp] theorem State.setNarg_params (s : State) (v : Word) : (s.setNarg v).params = s.params := rfl
@[simp] theorem State.setNarg_inbox (s : State) (v : Word) : (s.setNarg v).inbox = s.inbox := rfl
@[simp] theorem State.setNarg_reply (s : State) (v : Word) : (s.setNarg v).reply = s.reply := rfl

/-! ### setQptr: `QPTR` (10_state.md R32) -/

@[simp] theorem State.setQptr_cfgok (s : State) (v : Word) : (s.setQptr v).cfgok = s.cfgok := rfl
@[simp] theorem State.setQptr_alpha (s : State) (v : Word) : (s.setQptr v).alpha = s.alpha := rfl
@[simp] theorem State.setQptr_pad (s : State) (v : Word) : (s.setQptr v).pad = s.pad := rfl
@[simp] theorem State.setQptr_m (s : State) (v : Word) : (s.setQptr v).m = s.m := rfl
@[simp] theorem State.setQptr_k (s : State) (v : Word) : (s.setQptr v).k = s.k := rfl
@[simp] theorem State.setQptr_q (s : State) (v : Word) : (s.setQptr v).q = s.q := rfl
@[simp] theorem State.setQptr_narg (s : State) (v : Word) : (s.setQptr v).narg = s.narg := rfl
@[simp] theorem State.setQptr_qptr (s : State) (v : Word) : (s.setQptr v).qptr = v := rfl
@[simp] theorem State.setQptr_erridx (s : State) (v : Word) : (s.setQptr v).erridx = s.erridx := rfl
@[simp] theorem State.setQptr_err (s : State) (v : Word) : (s.setQptr v).err = s.err := rfl
@[simp] theorem State.setQptr_errk (s : State) (v : Word) : (s.setQptr v).errk = s.errk := rfl
@[simp] theorem State.setQptr_mperr (s : State) (v : Word) : (s.setQptr v).mperr = s.mperr := rfl
@[simp] theorem State.setQptr_kperr (s : State) (v : Word) : (s.setQptr v).kperr = s.kperr := rfl
@[simp] theorem State.setQptr_params (s : State) (v : Word) : (s.setQptr v).params = s.params := rfl
@[simp] theorem State.setQptr_inbox (s : State) (v : Word) : (s.setQptr v).inbox = s.inbox := rfl
@[simp] theorem State.setQptr_reply (s : State) (v : Word) : (s.setQptr v).reply = s.reply := rfl

end Sys2Proof.Machine
end

