-- ==== Sys2Proof/Laws/Ops.lean ====
section
/-! SUPPORT. What each shared operation can do, said once. -/

namespace Sys2Proof.Machine

/-- The constraint of 00_scope.md R5 on a capacity, in arithmetic. -/
theorem capacityWf_iff (c : Nat) : capacityWf c = true ↔ 1 ≤ c ∧ c < 2 ^ 32 := by
  unfold capacityWf
  rw [Bool.and_eq_true, decide_eq_true_eq, decide_eq_true_eq]
  unfold maxCapacity
  norm_num
  omega

/-- The constraints of 00_scope.md R5 on the parameters, in arithmetic. -/
theorem paramsWf_iff (p : Params) :
    p.wf = true ↔ (1 ≤ p.capM ∧ p.capM < 2 ^ 32) ∧ (1 ≤ p.capK ∧ p.capK < 2 ^ 32) ∧
      (1 ≤ p.capQ ∧ p.capQ < 2 ^ 32) := by
  simp only [Params.wf, Bool.and_eq_true, capacityWf_iff, and_assoc]

@[simp] theorem onConfigured_of_true {s t : State} (h : s.cfgok = true) : onConfigured s t = t := by
  simp [onConfigured, h]

@[simp] theorem onConfigured_of_false {s t : State} (h : s.cfgok = false) :
    onConfigured s t = s := by
  simp [onConfigured, h]

/-- With `CFGOK = 0` nothing changes, else the update is made (20_memory.md R52). -/
theorem onConfigured_cases (s t : State) :
    (s.cfgok = false ∧ onConfigured s t = s) ∨ (s.cfgok = true ∧ onConfigured s t = t) := by
  cases h : s.cfgok <;> simp [h]

/-- Everything a data command can do (30_encoding.md R78). -/
theorem dataCommand_cases (rd : Reads) (r : Except FnError Cells) (s : State) :
    (s.cfgok = false ∧ dataCommand rd r s = s) ∨
    (s.cfgok = true ∧ operandFlagged rd s = true ∧
      dataCommand rd r s = s.fail .operand 0 false) ∨
    (∃ e, s.cfgok = true ∧ operandFlagged rd s = false ∧ r = .error e ∧
      dataCommand rd r s = s.failWith e) ∨
    (∃ res, s.cfgok = true ∧ operandFlagged rd s = false ∧ r = .ok res ∧
      s.params.capQ < res.length ∧ dataCommand rd r s = s.fail .capacity 0 false) ∨
    (∃ res, s.cfgok = true ∧ operandFlagged rd s = false ∧ r = .ok res ∧
      res.length ≤ s.params.capQ ∧ dataCommand rd r s = s.commit res) := by
  unfold dataCommand
  cases hc : s.cfgok
  · simp [hc]
  · cases hf : operandFlagged rd s
    · cases r with
      | error e => simp [hc]
      | ok res =>
        by_cases hl : s.params.capQ < res.length
        · simp [hc, hl]
        · simp [hc, hl, Nat.not_lt.mp hl]
    · simp [hc]

theorem dataCommand_failedState {rd : Reads} {r : Except FnError Cells} {s : State}
    (h : s.cfgok = false) : dataCommand rd r s = s := by
  simp [dataCommand, h]

theorem dataCommand_flagged {rd : Reads} {r : Except FnError Cells} {s : State}
    (h : s.cfgok = true) (hf : operandFlagged rd s = true) :
    dataCommand rd r s = s.fail .operand 0 false := by
  simp [dataCommand, h, hf]

theorem dataCommand_raised {rd : Reads} {e : FnError} {s : State}
    (h : s.cfgok = true) (hf : operandFlagged rd s = false) :
    dataCommand rd (.error e) s = s.failWith e := by
  simp [dataCommand, h, hf]

theorem dataCommand_tooLong {rd : Reads} {res : Cells} {s : State}
    (h : s.cfgok = true) (hf : operandFlagged rd s = false) (hl : s.params.capQ < res.length) :
    dataCommand rd (.ok res) s = s.fail .capacity 0 false := by
  simp [dataCommand, h, hf, hl]

theorem dataCommand_commits {rd : Reads} {res : Cells} {s : State}
    (h : s.cfgok = true) (hf : operandFlagged rd s = false) (hl : res.length ≤ s.params.capQ) :
    dataCommand rd (.ok res) s = s.commit res := by
  simp [dataCommand, h, hf, Nat.not_lt.mpr hl]

@[simp] theorem operandFlagged_readsMOnly (s : State) :
    operandFlagged readsMOnly s = s.mperr := by
  simp [operandFlagged, readsMOnly]

@[simp] theorem operandFlagged_readsKOnly (s : State) :
    operandFlagged readsKOnly s = s.kperr := by
  simp [operandFlagged, readsKOnly]

@[simp] theorem operandFlagged_readsMK (s : State) :
    operandFlagged readsMK s = (s.mperr || s.kperr) := by
  simp [operandFlagged, readsMK]

/-- What any data command leaves alone (30_encoding.md R78: "In every case M, K, NARG, ... are
unchanged"). -/
theorem dataCommand_frame (rd : Reads) (r : Except FnError Cells) (s : State) :
    (dataCommand rd r s).cfgok = s.cfgok ∧ (dataCommand rd r s).alpha = s.alpha ∧
    (dataCommand rd r s).pad = s.pad ∧ (dataCommand rd r s).m = s.m ∧
    (dataCommand rd r s).k = s.k ∧ (dataCommand rd r s).narg = s.narg ∧
    (dataCommand rd r s).mperr = s.mperr ∧ (dataCommand rd r s).kperr = s.kperr ∧
    (dataCommand rd r s).params = s.params ∧ (dataCommand rd r s).inbox = s.inbox ∧
    (dataCommand rd r s).reply = s.reply := by
  rcases dataCommand_cases rd r s with ⟨-, h⟩ | ⟨-, -, h⟩ | ⟨e, -, -, -, h⟩ | ⟨_, -, -, -, -, h⟩ |
    ⟨_, -, -, -, -, h⟩ <;> rw [h]
  · simp
  · simp
  · cases e <;> simp [State.failWith]
  · simp
  · simp

/-- A push into M appends one cell or sets `MPERR` (10_state.md R31). -/
theorem pushM_cases (v : Word) (s : State) :
    (s.cfgok = false ∧ pushM v s = s) ∨
    (s.cfgok = true ∧ v.toNat ≤ 255 ∧ s.m.length < s.params.capM ∧
      pushM v s = { s with m := s.m ++ [v.setWidth 8] }) ∨
    (s.cfgok = true ∧ ¬(v.toNat ≤ 255 ∧ s.m.length < s.params.capM) ∧
      pushM v s = { s with mperr := true }) := by
  unfold pushM
  cases hc : s.cfgok
  · simp [hc]
  · by_cases h : v.toNat ≤ 255 ∧ s.m.length < s.params.capM
    · simp [hc, h]
    · simp [hc, h]

/-- A push into K appends one cell or sets `KPERR` (10_state.md R31). -/
theorem pushK_cases (v : Word) (s : State) :
    (s.cfgok = false ∧ pushK v s = s) ∨
    (s.cfgok = true ∧ v.toNat ≤ 255 ∧ s.k.length < s.params.capK ∧
      pushK v s = { s with k := s.k ++ [v.setWidth 8] }) ∨
    (s.cfgok = true ∧ ¬(v.toNat ≤ 255 ∧ s.k.length < s.params.capK) ∧
      pushK v s = { s with kperr := true }) := by
  unfold pushK
  cases hc : s.cfgok
  · simp [hc]
  · by_cases h : v.toNat ≤ 255 ∧ s.k.length < s.params.capK
    · simp [hc, h]
    · simp [hc, h]

/-- An illegal word reports `ILLCMD` and changes nothing else (60_exceptions.md R179). -/
theorem illegalCommand_cases (s : State) :
    (s.cfgok = false ∧ illegalCommand s = s) ∨
    (s.cfgok = true ∧ illegalCommand s = s.report .illcmd 0 false) :=
  onConfigured_cases s _

end Sys2Proof.Machine
end

