-- ==== Sys2Proof/Laws/BitCodec.lean ====
section
/-! SUPPORT. The small lemmas of the Bit Codec's functions (spec/40_bit_codec.md section 1): what
each does to one character, one group, one run of markers. -/

namespace Sys2Proof.Machine

/-! ### Numbers and bits (00_scope.md R8) -/

@[simp] theorem bits8_length (v : Byte) : (bits8 v).length = 8 := rfl

@[simp] theorem bits6_length (g : Idx) : (bits6 g).length = 6 := rfl

@[simp] theorem bitsVal_nil : bitsVal [] = 0 := rfl

@[simp] theorem bitsVal_cons (b : Bool) (bs : BitString) :
    bitsVal (b :: bs) = b.toNat * 2 ^ bs.length + bitsVal bs := rfl

theorem bitsVal_lt (B : BitString) : bitsVal B < 2 ^ B.length := by
  induction B with
  | nil => simp
  | cons b bs ih =>
    have : b.toNat ≤ 1 := by cases b <;> simp
    simp only [bitsVal_cons, List.length_cons, Nat.pow_succ]
    nlinarith

/-- Bit `n − 1 − t` of the number is the bit at place `t` of the string: most significant first. -/
theorem testBit_bitsVal (B : BitString) (t : Nat) (h : t < B.length) :
    B[t]? = some ((bitsVal B).testBit (B.length - 1 - t)) := by
  induction B generalizing t with
  | nil => simp at h
  | cons b bs ih =>
    have hlt := bitsVal_lt bs
    rw [bitsVal_cons, Nat.mul_comm, Nat.testBit_two_pow_mul_add _ hlt]
    cases t with
    | zero => cases b <;> simp
    | succ t =>
      have ht : t < bs.length := by simpa using h
      have e : (b :: bs).length - 1 - (t + 1) = bs.length - 1 - t := by simp; omega
      rw [e, if_pos (by omega), List.getElem?_cons_succ, ih t ht]

/-- `val(bits8(v)) = v` (R8). -/
@[simp] theorem bitsVal_bits8 (v : Byte) : bitsVal (bits8 v) = v.toNat := by
  revert v; decide +kernel

/-- `val(bits6(g)) = g` (R8). -/
@[simp] theorem bitsVal_bits6 (g : Idx) : bitsVal (bits6 g) = g.toNat := by
  revert g; decide +kernel

theorem bits8_getElem? (v : Byte) {t : Nat} (h : t < 8) :
    (bits8 v)[t]? = some (v.getLsbD (7 - t)) := by
  interval_cases t <;> rfl

theorem bits6_getElem? (g : Idx) {t : Nat} (h : t < 6) :
    (bits6 g)[t]? = some (g.getLsbD (5 - t)) := by
  interval_cases t <;> rfl

/-! ### Sequences of equal pieces -/

/-- Place `n * j + t` of a concatenation of pieces of length `n` is place `t` of piece `j`. -/
theorem flatMap_getElem? {α β : Type} (f : α → List β) {n : Nat} (hf : ∀ a, (f a).length = n)
    (S : List α) (j t : Nat) (ht : t < n) :
    (S.flatMap f)[n * j + t]? = S[j]?.bind fun a => (f a)[t]? := by
  induction S generalizing j with
  | nil => simp
  | cons a as ih =>
    rw [List.flatMap_cons]
    cases j with
    | zero =>
      rw [List.getElem?_append_left (by rw [hf]; omega)]
      simp
    | succ j =>
      rw [List.getElem?_append_right (by rw [hf]; nlinarith), hf]
      have : n * (j + 1) + t - n = n * j + t := by
        rw [Nat.mul_succ]; omega
      rw [this, ih]
      simp

theorem flatMap_length {α β : Type} (f : α → List β) {n : Nat} (hf : ∀ a, (f a).length = n)
    (S : List α) : (S.flatMap f).length = n * S.length := by
  induction S with
  | nil => simp
  | cons a as ih =>
    rw [List.flatMap_cons, List.length_append, ih, hf, List.length_cons]
    ring

theorem slice_length {α : Type} (S : List α) (i j : Nat) (h : j ≤ S.length) :
    (slice S i j).length = j - i := by
  simp [slice]; omega

theorem slice_getElem? {α : Type} (S : List α) (i n t : Nat) (h : t < n) :
    (slice S i (i + n))[t]? = S[i + t]? := by
  simp [slice, h]

/-! ### Text to bits and back (R100, R101) -/

@[simp] theorem textToBits_nil : textToBits [] = [] := rfl

@[simp] theorem textToBits_cons (v : Byte) (T : Cells) :
    textToBits (v :: T) = bits8 v ++ textToBits T := rfl

@[simp] theorem textToBits_length (T : Cells) : (textToBits T).length = 8 * T.length :=
  flatMap_length bits8 bits8_length T

@[simp] theorem bitsToText_length (B : BitString) : (bitsToText B).length = B.length / 8 := by
  simp [bitsToText]

/-- The first eight bits make the first character. -/
theorem bitsToText_append (v : Byte) (B : BitString) :
    bitsToText (bits8 v ++ B) = v :: bitsToText B := by
  have h8 : (bits8 v ++ B).length / 8 = B.length / 8 + 1 := by simp
  unfold bitsToText
  rw [h8, List.range_succ_eq_map, List.map_cons, List.map_map]
  congr 1
  · have : slice (bits8 v ++ B) (8 * 0) (8 * 0 + 8) = bits8 v := by
      simp only [slice, Nat.mul_zero, List.drop_zero, Nat.zero_add, Nat.sub_zero]
      exact List.take_left' rfl
    rw [this, bitsVal_bits8]
    simp
  · apply List.map_congr_left
    intro j _
    have : slice (bits8 v ++ B) (8 * (j + 1)) (8 * (j + 1) + 8) = slice B (8 * j) (8 * j + 8) := by
      have e : 8 * (j + 1) = (bits8 v).length + 8 * j := by rw [bits8_length]; ring
      unfold slice
      rw [Nat.add_sub_cancel_left, Nat.add_sub_cancel_left, e, List.drop_length_add_append]
    simp only [Function.comp, Nat.succ_eq_add_one, this]

/-- Fewer than eight bits make no character. -/
theorem bitsToText_of_length_lt {B : BitString} (h : B.length < 8) : bitsToText B = [] :=
  List.eq_nil_of_length_eq_zero (by simp; omega)

/-- The bits of a text, followed by fewer than eight more, are that text. -/
theorem bitsToText_textToBits_append (T : Cells) {B : BitString} (h : B.length < 8) :
    bitsToText (textToBits T ++ B) = T := by
  induction T with
  | nil => simpa using bitsToText_of_length_lt h
  | cons v T ih => rw [textToBits_cons, List.append_assoc, bitsToText_append, ih]

/-! ### Groups (R102) -/

/-- The indices of the 6-bit groups of a bit string (R102), before they are mapped to symbols. -/
def groupsOf (B : BitString) : List Idx :=
  (List.range (groupCount B.length)).map fun j =>
    BitVec.ofNat 6 (bitsVal (slice
      (B ++ List.replicate (6 * groupCount B.length - B.length) false) (6 * j) (6 * j + 6)))

theorem bitsToSyms_eq (A : Cells) (B : BitString) : bitsToSyms A B = (groupsOf B).map (sym A) := by
  simp [bitsToSyms, groupsOf]

@[simp] theorem groupsOf_length (B : BitString) : (groupsOf B).length = groupCount B.length := by
  simp [groupsOf]

@[simp] theorem bitsToSyms_length (A : Cells) (B : BitString) :
    (bitsToSyms A B).length = groupCount B.length := by
  simp [bitsToSyms_eq]

theorem groupCount_bounds (n : Nat) : n ≤ 6 * groupCount n ∧ 6 * groupCount n < n + 6 := by
  unfold groupCount; omega

/-- Bit `5 − t` of group `j` is bit `6j + t` of the string, zero beyond its end. -/
theorem groupsOf_bit (B : BitString) (j t : Nat) (hj : j < groupCount B.length) (ht : t < 6) :
    ∃ g, (groupsOf B)[j]? = some g ∧ g.getLsbD (5 - t) = (B[6 * j + t]?).getD false := by
  have hb := groupCount_bounds B.length
  set n := groupCount B.length with hn
  set B' := B ++ List.replicate (6 * n - B.length) false with hB'
  have hlen : B'.length = 6 * n := by simp [hB']; omega
  have hsl : (slice B' (6 * j) (6 * j + 6)).length = 6 := by
    rw [slice_length _ _ _ (by rw [hlen]; omega)]; omega
  refine ⟨BitVec.ofNat 6 (bitsVal (slice B' (6 * j) (6 * j + 6))), ?_, ?_⟩
  · simp [groupsOf, ← hn, ← hB', hj]
  · have h1 := testBit_bitsVal (slice B' (6 * j) (6 * j + 6)) t (by omega)
    rw [hsl] at h1
    have h2 : (slice B' (6 * j) (6 * j + 6))[t]? = B'[6 * j + t]? :=
      slice_getElem? B' (6 * j) 6 t ht
    have h3 : B'[6 * j + t]? = some ((B[6 * j + t]?).getD false) := by
      by_cases hlt : 6 * j + t < B.length
      · rw [hB', List.getElem?_append_left hlt, List.getElem?_eq_getElem hlt]
        rfl
      · rw [hB', List.getElem?_append_right (by omega), List.getElem?_replicate,
          if_pos (by omega), List.getElem?_eq_none (by omega)]
        rfl
    rw [h1, h3, Option.some_inj] at h2
    rw [BitVec.getLsbD_ofNat, ← h2]
    have : 5 - t < 6 := by omega
    simp [this]

/-- Unpacking the groups of a bit string gives it back, followed by the fill bits. -/
theorem groupsOf_flatMap_bits6 (B : BitString) :
    (groupsOf B).flatMap bits6 = B ++ List.replicate (6 * groupCount B.length - B.length) false := by
  have hb := groupCount_bounds B.length
  apply List.ext_getElem?
  intro i
  have hi : i = 6 * (i / 6) + i % 6 := (Nat.div_add_mod i 6).symm
  have ht : i % 6 < 6 := Nat.mod_lt _ (by norm_num)
  conv_lhs => rw [hi]
  rw [flatMap_getElem? bits6 bits6_length _ _ _ ht]
  by_cases hj : i / 6 < groupCount B.length
  · obtain ⟨g, hg, hbit⟩ := groupsOf_bit B (i / 6) (i % 6) hj ht
    rw [hg, Option.bind_some, bits6_getElem? g ht, hbit, ← hi]
    by_cases hlt : i < B.length
    · rw [List.getElem?_append_left hlt, List.getElem?_eq_getElem hlt]
      rfl
    · rw [List.getElem?_append_right (by omega), List.getElem?_replicate, if_pos (by omega),
        List.getElem?_eq_none (by omega)]
      rfl
  · rw [List.getElem?_eq_none (by rw [groupsOf_length]; omega), Option.bind_none,
      List.getElem?_eq_none]
    rw [List.length_append, List.length_replicate]
    omega

/-! ### Markers (R103, R105) -/

theorem pad4_length (P : Byte) (S : Cells) :
    (pad4 P S).length = S.length + (4 - S.length % 4) % 4 := by
  simp [pad4]

/-- A sequence is its stripped form followed by its trailing run of markers, and the stripped form
does not end in a marker (R105). -/
theorem strip_spec (P : Byte) (E : Cells) :
    E = strip P E ++ List.replicate (trailingRun P E) P ∧ (strip P E).getLast? ≠ some P := by
  have hsplit : E.reverse = E.reverse.takeWhile (· == P) ++ E.reverse.dropWhile (· == P) :=
    List.takeWhile_append_dropWhile.symm
  have hrep : E.reverse.takeWhile (· == P) = List.replicate (trailingRun P E) P := by
    apply List.eq_replicate_of_mem
    intro b hb
    simpa using List.mem_takeWhile_imp hb
  have hE : E = (E.reverse.dropWhile (· == P)).reverse ++ List.replicate (trailingRun P E) P := by
    have := congrArg List.reverse hsplit
    rw [List.reverse_reverse, List.reverse_append, hrep, List.reverse_replicate] at this
    exact this
  have hstrip : strip P E = (E.reverse.dropWhile (· == P)).reverse := by
    have hlen : E.length = (E.reverse.dropWhile (· == P)).length + trailingRun P E := by
      have := congrArg List.length hE
      rwa [List.length_append, List.length_reverse, List.length_replicate] at this
    unfold strip
    rw [hlen, Nat.add_sub_cancel]
    exact (congrArg (List.take _) hE).trans (List.take_left' (by simp))
  refine ⟨hstrip ▸ hE, ?_⟩
  rw [hstrip, List.getLast?_reverse]
  intro h
  have := List.head?_dropWhile_not (· == P) E.reverse
  rw [h] at this
  simp at this

/-- Stripping a sequence that does not end in a marker, followed by markers, gives it back. -/
theorem strip_append_replicate (P : Byte) (S : Cells) (n : Nat) (h : S.getLast? ≠ some P) :
    strip P (S ++ List.replicate n P) = S := by
  have ht : trailingRun P (S ++ List.replicate n P) = n := by
    unfold trailingRun
    rw [List.reverse_append, List.reverse_replicate]
    have : ((List.replicate n P) ++ S.reverse).takeWhile (· == P) = List.replicate n P := by
      rw [List.takeWhile_append_of_pos (by simp)]
      cases hS : S.reverse with
      | nil => simp
      | cons b bs =>
        have hb : b ≠ P := by
          rintro rfl
          exact h (by rw [List.getLast?_eq_head?_reverse, hS]; rfl)
        simp [hb]
    rw [this, List.length_replicate]
  unfold strip
  rw [ht, List.length_append, List.length_replicate, Nat.add_sub_cancel, List.take_left]

theorem strip_eq_self {P : Byte} {S : Cells} (h : S.getLast? ≠ some P) : strip P S = S := by
  simpa using strip_append_replicate P S 0 h

theorem strip_pad4 {P : Byte} {S : Cells} (h : S.getLast? ≠ some P) :
    strip P (pad4 P S) = S := strip_append_replicate P S _ h

theorem strip_length_le (P : Byte) (E : Cells) : (strip P E).length ≤ E.length := by
  simp [strip]

/-- A stripped cell is the cell of the operand at the same index (60_exceptions.md R177). -/
theorem strip_getElem? {P : Byte} {E : Cells} {i : Nat} {c : Byte} (h : (strip P E)[i]? = some c) :
    E[i]? = some c := by
  unfold strip at h
  obtain ⟨hi, rfl⟩ := List.getElem?_eq_some_iff.mp h
  rw [List.getElem_take]
  exact List.getElem?_eq_getElem _

/-! ### Encoding and decoding (R104, R106 to R108) -/

variable {A : Cells} {P : Byte}

theorem map_sym_getLast?_ne (h : AlphabetOk A P) (gs : List Idx) :
    (gs.map (sym A)).getLast? ≠ some P := by
  rw [List.getLast?_map]
  intro hc
  obtain ⟨g, -, hg⟩ := Option.map_eq_some_iff.mp hc
  exact sym_ne_pad h g hg

theorem strip_map_sym (h : AlphabetOk A P) (gs : List Idx) :
    strip P (gs.map (sym A)) = gs.map (sym A) :=
  strip_eq_self (map_sym_getLast?_ne h gs)

/-- Stripping an encoding leaves the symbols of its groups. -/
theorem strip_encodeText (h : AlphabetOk A P) (T : Cells) :
    strip P (encodeText A P T) = (groupsOf (textToBits T)).map (sym A) := by
  unfold encodeText bitsToEncoded
  rw [bitsToSyms_eq, strip_pad4 (map_sym_getLast?_ne h _)]

/-- Unpacking a run of symbols, trailing markers or not, gives the bits of their indices. -/
theorem encodedToBits_of_strip (h : AlphabetOk A P) {E : Cells} {gs : List Idx}
    (hE : strip P E = gs.map (sym A)) : encodedToBits A P E = .ok (gs.flatMap bits6) := by
  unfold encodedToBits
  rw [hE, scan_lookup_map_sym h.1 h.2.1]

theorem decodeText_of_strip (h : AlphabetOk A P) {E : Cells} {gs : List Idx}
    (hE : strip P E = gs.map (sym A)) :
    decodeText A P E = .ok (bitsToText (gs.flatMap bits6)) := by
  unfold decodeText
  rw [encodedToBits_of_strip h hE]

/-- Decoding looks at nothing but the stripped form. -/
theorem decodeText_strip (E E' : Cells) (h : strip P E = strip P E') :
    decodeText A P E = decodeText A P E' := by
  unfold decodeText encodedToBits
  rw [h]

/-! ### Bit cells (10_state.md R37) -/

@[simp] theorem toCells_length (B : BitString) : (toCells B).length = B.length := by
  simp [toCells]

theorem toCells_getElem? (B : BitString) (i : Nat) :
    (toCells B)[i]? = B[i]?.map fun b => if b then 0x31#8 else 0x30#8 := by
  simp [toCells]

theorem bitOfCell_eq_ok_iff {i : Nat} {c : Byte} {b : Bool} :
    bitOfCell i c = .ok b ↔ c = if b then 0x31#8 else 0x30#8 := by
  unfold bitOfCell
  by_cases h0 : c = 0x30#8
  · subst h0; cases b <;> simp
  · by_cases h1 : c = 0x31#8
    · subst h1; cases b <;> simp
    · cases b <;> simp [h0, h1]

theorem bitOfCell_eq_error_iff {i : Nat} {c : Byte} {e : FnError} :
    bitOfCell i c = .error e ↔ c ≠ 0x30#8 ∧ c ≠ 0x31#8 ∧ e = .badbit i := by
  unfold bitOfCell
  by_cases h0 : c = 0x30#8
  · simp [h0]
  · by_cases h1 : c = 0x31#8
    · simp [h1]
    · simp [h0, h1, eq_comm]

/-- `fromCells` answers exactly the bit strings that `toCells` writes. -/
theorem fromCells_eq_ok_iff {S : Cells} {B : BitString} : fromCells S = .ok B ↔ S = toCells B := by
  unfold fromCells
  rw [scan_eq_ok_iff]
  constructor
  · rintro ⟨hl, h⟩
    apply List.ext_getElem?
    intro i
    rw [toCells_getElem?]
    cases hS : S[i]? with
    | none =>
      have := List.getElem?_eq_none_iff.mp hS
      rw [List.getElem?_eq_none (by omega)]; rfl
    | some c =>
      obtain ⟨b, hb, hc⟩ := h i c hS
      rw [hb, bitOfCell_eq_ok_iff.mp hc]; rfl
  · rintro rfl
    refine ⟨by simp, fun j c hj => ?_⟩
    rw [toCells_getElem?, Option.map_eq_some_iff] at hj
    obtain ⟨b, hb, rfl⟩ := hj
    exact ⟨b, hb, bitOfCell_eq_ok_iff.mpr rfl⟩

@[simp] theorem fromCells_toCells (B : BitString) : fromCells (toCells B) = .ok B :=
  fromCells_eq_ok_iff.mpr rfl

/-- A failing `fromCells` raises `BADBIT` at the least cell that is no bit cell. -/
theorem fromCells_eq_error_iff {S : Cells} {e : FnError} :
    fromCells S = .error e ↔
      ∃ j c, S[j]? = some c ∧ c ≠ 0x30#8 ∧ c ≠ 0x31#8 ∧ e = .badbit j ∧
        ∀ j' c', j' < j → S[j']? = some c' → c' = 0x30#8 ∨ c' = 0x31#8 := by
  unfold fromCells
  rw [scan_eq_error_iff]
  constructor
  · rintro ⟨j, c, h1, h2, h3⟩
    obtain ⟨h4, h5, h6⟩ := bitOfCell_eq_error_iff.mp h2
    refine ⟨j, c, h1, h4, h5, by simpa using h6, fun j' c' hj hc => ?_⟩
    obtain ⟨b, hb⟩ := h3 j' c' hj hc
    have := bitOfCell_eq_ok_iff.mp hb
    cases b <;> simp_all
  · rintro ⟨j, c, h1, h2, h3, h4, h5⟩
    refine ⟨j, c, h1, bitOfCell_eq_error_iff.mpr ⟨h2, h3, by simpa using h4⟩, fun j' c' hj hc => ?_⟩
    rcases h5 j' c' hj hc with h | h
    · exact ⟨false, bitOfCell_eq_ok_iff.mpr (by simpa using h)⟩
    · exact ⟨true, bitOfCell_eq_ok_iff.mpr (by simpa using h)⟩

end Sys2Proof.Machine
end

