-- ==== Sys2Proof/Laws/Additive.lean ====
section
/-! SUPPORT. The small lemmas of the Keyed Additive Cipher's functions (spec/42_additive.md
section 1), and the equation of `REPK` with the function its rule names. -/

namespace Sys2Proof.Machine

variable {A : Cells} {P : Byte}

@[simp] theorem repeatKey_nil (n : Nat) : repeatKey [] n = .error .invkey := rfl

theorem repeatKey_of_ne {S : Cells} (h : S ≠ []) (n : Nat) :
    repeatKey S n = .ok ((List.range n).map fun i => S.getD (i % S.length) 0#8) := by
  simp [repeatKey, h]

/-- `REPK` is the data command on `repeat(K, NARG)` (R146): a repetition cut after `CAP_Q + 1`
cells fits Q exactly when the whole one does. -/
theorem execRepk_eq (s : State) :
    execRepk s = .next (dataCommand readsKOnly (repeatKey s.k s.narg.toNat) s) := by
  unfold execRepk
  by_cases hle : s.narg.toNat ≤ s.params.capQ
  · rw [Nat.min_eq_left (by omega)]
  · rw [Nat.min_eq_right (by omega)]
    by_cases hk : s.k = []
    · simp [hk]
    · rw [repeatKey_of_ne hk, repeatKey_of_ne hk]
      have hlen1 : s.params.capQ <
          ((List.range (s.params.capQ + 1)).map fun i => s.k.getD (i % s.k.length) 0#8).length := by
        simp
      have hlen2 : s.params.capQ <
          ((List.range s.narg.toNat).map fun i => s.k.getD (i % s.k.length) 0#8).length := by
        simpa using hle
      cases hc : s.cfgok
      · rw [dataCommand_failedState hc, dataCommand_failedState hc]
      · cases hf : operandFlagged readsKOnly s
        · rw [dataCommand_tooLong hc hf hlen1, dataCommand_tooLong hc hf hlen2]
        · rw [dataCommand_flagged hc hf, dataCommand_flagged hc hf]

@[simp] theorem combineSyms_empty_key (op : Idx → Idx → Idx) (M : Cells) :
    combineSyms A op M [] = .error .invkey := rfl

/-- A bad key cell is reported before the message is looked at (R141). -/
theorem combineSyms_bad_key {op : Idx → Idx → Idx} {M S : Cells} {e : FnError} (hS : S ≠ [])
    (h : scan (lookup A true) 0 S = .error e) : combineSyms A op M S = .error e := by
  simp [combineSyms, hS, h]

theorem combineSyms_of_key {op : Idx → Idx → Idx} {M S : Cells} {ks : List Idx} (hS : S ≠ [])
    (h : scan (lookup A true) 0 S = .ok ks) :
    combineSyms A op M S = scan (combineCell A op ks) 0 M := by
  simp [combineSyms, hS, h]

theorem combineCell_sym (hl : A.length = 64) (hn : A.Nodup) (op : Idx → Idx → Idx) (ks : List Idx)
    (i : Nat) (g : Idx) :
    combineCell A op ks i (sym A g) = .ok (sym A (op g (ks.getD (i % ks.length) 0#6))) := by
  simp [combineCell, lookup_sym hl hn]

theorem combineCell_eq_error_iff {op : Idx → Idx → Idx} {ks : List Idx} {i : Nat} {c : Byte}
    {e : FnError} : combineCell A op ks i c = .error e ↔ c ∉ A ∧ e = .invsym i false := by
  rw [← idx_eq_none_iff]
  unfold combineCell lookup
  cases idx A c <;> simp [eq_comm]

/-- Combining symbols with symbols combines their indices (R141, R142). -/
theorem combineSyms_map_sym (hl : A.length = 64) (hn : A.Nodup) (op : Idx → Idx → Idx)
    (gs ks : List Idx) (hk : ks ≠ []) :
    combineSyms A op (gs.map (sym A)) (ks.map (sym A)) =
      .ok ((gs.mapIdx fun i g => op g (ks.getD (i % ks.length) 0#6)).map (sym A)) := by
  rw [combineSyms_of_key (by simpa using hk) (scan_lookup_map_sym hl hn true 0 ks), scan_eq_ok_iff]
  refine ⟨by simp, fun j c hj => ?_⟩
  rw [List.getElem?_map, Option.map_eq_some_iff] at hj
  obtain ⟨g, hg, rfl⟩ := hj
  refine ⟨_, ?_, combineCell_sym hl hn op ks _ g⟩
  simp [List.getElem?_mapIdx, hg]

theorem encodeKey_eq (h : AlphabetOk A P) {Kt : Cells} (hK : Kt ≠ []) :
    encodeKey A P Kt = .ok ((groupsOf (textToBits Kt)).map (sym A)) := by
  simp [encodeKey, hK, strip_encodeText h]

@[simp] theorem encodeKey_nil : encodeKey A P [] = .error .invkey := rfl

theorem groupsOf_textToBits_ne_nil {Kt : Cells} (hK : Kt ≠ []) :
    groupsOf (textToBits Kt) ≠ [] := by
  intro h
  have h1 := congrArg List.length h
  rw [groupsOf_length, textToBits_length] at h1
  have h2 : 0 < Kt.length := List.length_pos_iff.mpr hK
  have h3 := groupCount_bounds (8 * Kt.length)
  simp only [List.length_nil] at h1
  omega

/-- The ciphertext of the Keyed Additive Cipher: the indices of the message's groups plus those of
the key's, repeated (R144). -/
theorem encryptAdditive_eq (h : AlphabetOk A P) (T : Cells) {Kt : Cells} (hK : Kt ≠ []) :
    encryptAdditive A P T Kt =
      .ok (((groupsOf (textToBits T)).mapIdx fun i g =>
        g + (groupsOf (textToBits Kt)).getD (i % (groupsOf (textToBits Kt)).length) 0#6).map
          (sym A)) := by
  unfold encryptAdditive addsyms
  rw [encodeKey_eq h hK, strip_encodeText h]
  exact combineSyms_map_sym h.1 h.2.1 _ _ _ (groupsOf_textToBits_ne_nil hK)

@[simp] theorem encryptAdditive_empty_key (T : Cells) :
    encryptAdditive A P T [] = .error .invkey := rfl

@[simp] theorem decryptAdditive_empty_key (C : Cells) :
    decryptAdditive A P C [] = .error .invkey := rfl

end Sys2Proof.Machine
end

