-- ==== Sys2Proof/Laws/Decode.lean ====
section
/-! SUPPORT. What the decoder can answer. -/

namespace Sys2Proof

/-- Everything the opcode map answers (spec/30_encoding.md R74). -/
theorem opcodeOf_eq_some {op : BitVec 8} {i : Instr} (h : opcodeOf op = some i) :
    op = (encode i).extractLsb' 0 8 := by
  revert i
  revert op
  decide +kernel

theorem opcodeOf_isSome_iff (op : BitVec 8) : (opcodeOf op).isSome = legalOpcodes.contains op := by
  revert op
  decide +kernel

/-- Everything the decoder answers (R70). -/
theorem decode_cases (w : Word) :
    (∃ i, decode w = .ok i ∧ w.extractLsb' 8 24 = 0#24 ∧
      opcodeOf (w.extractLsb' 0 8) = some i) ∨
    (decode w = .error (.noSuchOpcode (w.extractLsb' 0 8)) ∧ w.extractLsb' 8 24 = 0#24 ∧
      opcodeOf (w.extractLsb' 0 8) = none) ∨
    (decode w = .error (.zeroField (w.extractLsb' 8 24)) ∧ w.extractLsb' 8 24 ≠ 0#24) := by
  unfold decode
  by_cases hz : w.extractLsb' 8 24 = 0#24
  · rw [if_pos hz]
    cases ho : opcodeOf (w.extractLsb' 0 8) with
    | some i => exact .inl ⟨i, rfl, hz, rfl⟩
    | none => exact .inr (.inl ⟨rfl, hz, rfl⟩)
  · rw [if_neg hz]
    exact .inr (.inr ⟨rfl, hz⟩)

/-- A word is its two fields (R70). -/
theorem word_eq_fields (w : Word) :
    w = w.extractLsb' 8 24 ++ w.extractLsb' 0 8 := by
  apply BitVec.eq_of_getLsbD_eq
  intro i hi
  rw [BitVec.getLsbD_append]
  simp only [BitVec.getLsbD_extractLsb']
  by_cases h : i < 8
  · simp [h]
  · simp [h, show i - 8 < 24 by omega, show 8 + (i - 8) = i by omega]

end Sys2Proof
end

