-- ==== Sys2Proof/Laws/PerInstr.lean ====
section
/-! SUPPORT. The per-instruction family RoundTrip: the word written for a command decodes to it. -/

namespace Sys2Proof.Laws.RoundTrip

/-- The word of a command decodes to that command (spec/30_encoding.md R70, R71). -/
def Statement (i : Instr) : Prop := decode (encode i) = .ok i

theorem clr : Statement .clr := rfl

theorem clrm : Statement .clrm := rfl

theorem clrk : Statement .clrk := rfl

theorem qtom : Statement .qtom := rfl

theorem qtok : Statement .qtok := rfl

theorem t2b : Statement .t2b := rfl

theorem b2t : Statement .b2t := rfl

theorem b2e : Statement .b2e := rfl

theorem e2b : Statement .e2b := rfl

theorem strip : Statement .strip := rfl

theorem pad4 : Statement .pad4 := rfl

theorem enc : Statement .enc := rfl

theorem dec : Statement .dec := rfl

theorem rots : Statement .rots := rfl

theorem encrot : Statement .encrot := rfl

theorem decrot : Statement .decrot := rfl

theorem repk : Statement .repk := rfl

theorem adds : Statement .adds := rfl

theorem subs : Statement .subs := rfl

theorem encadd : Statement .encadd := rfl

theorem decadd : Statement .decadd := rfl

end Sys2Proof.Laws.RoundTrip
end

