-- ==== Sys2Proof/Laws/Port.lean ====
section
/-! SUPPORT. What the port and one step can do, said once. -/

namespace Sys2Proof.Machine

@[simp] theorem State.accept_cfgok (s : State) (rest : List Event) (a : Option Word) :
    (s.accept rest a).cfgok = s.cfgok := rfl
@[simp] theorem State.accept_alpha (s : State) (rest : List Event) (a : Option Word) :
    (s.accept rest a).alpha = s.alpha := rfl
@[simp] theorem State.accept_pad (s : State) (rest : List Event) (a : Option Word) :
    (s.accept rest a).pad = s.pad := rfl
@[simp] theorem State.accept_m (s : State) (rest : List Event) (a : Option Word) :
    (s.accept rest a).m = s.m := rfl
@[simp] theorem State.accept_k (s : State) (rest : List Event) (a : Option Word) :
    (s.accept rest a).k = s.k := rfl
@[simp] theorem State.accept_q (s : State) (rest : List Event) (a : Option Word) :
    (s.accept rest a).q = s.q := rfl
@[simp] theorem State.accept_narg (s : State) (rest : List Event) (a : Option Word) :
    (s.accept rest a).narg = s.narg := rfl
@[simp] theorem State.accept_qptr (s : State) (rest : List Event) (a : Option Word) :
    (s.accept rest a).qptr = s.qptr := rfl
@[simp] theorem State.accept_erridx (s : State) (rest : List Event) (a : Option Word) :
    (s.accept rest a).erridx = s.erridx := rfl
@[simp] theorem State.accept_err (s : State) (rest : List Event) (a : Option Word) :
    (s.accept rest a).err = s.err := rfl
@[simp] theorem State.accept_errk (s : State) (rest : List Event) (a : Option Word) :
    (s.accept rest a).errk = s.errk := rfl
@[simp] theorem State.accept_mperr (s : State) (rest : List Event) (a : Option Word) :
    (s.accept rest a).mperr = s.mperr := rfl
@[simp] theorem State.accept_kperr (s : State) (rest : List Event) (a : Option Word) :
    (s.accept rest a).kperr = s.kperr := rfl
@[simp] theorem State.accept_params (s : State) (rest : List Event) (a : Option Word) :
    (s.accept rest a).params = s.params := rfl
@[simp] theorem State.accept_inbox (s : State) (rest : List Event) (a : Option Word) :
    (s.accept rest a).inbox = rest := rfl
@[simp] theorem State.accept_reply (s : State) (rest : List Event) (a : Option Word) :
    (s.accept rest a).reply = a := rfl

/-- Every command answers a next state: no command stops the machine
(spec/93_implementation_defined.md, end of part 1). -/
theorem exec_next (i : Instr) (s : State) : ∃ t, exec i s = .next t := by
  cases i <;> exact ⟨_, rfl⟩

/-- What a write to `CMD` does (10_state.md R24). -/
theorem writeCmd_cases (w : Word) (s : State) :
    (∃ i, decode w = .ok i ∧ writeCmd w s = exec i s) ∨
    (∃ r, decode w = .error r ∧ writeCmd w s = .next (illegalCommand s)) := by
  unfold writeCmd
  cases h : decode w with
  | ok i => exact .inl ⟨i, rfl, rfl⟩
  | error r => exact .inr ⟨r, rfl, rfl⟩

/-- Everything a register write can do (20_memory.md R52). -/
theorem regWrite_cases (r : Fin 16) (v : Word) (s : State) :
    (r = regCmd ∧ regWrite r v s = writeCmd v s) ∨
    (r = regNarg ∧ regWrite r v s = .next (onConfigured s (s.setNarg v))) ∨
    (r = regMpush ∧ regWrite r v s = .next (pushM v s)) ∨
    (r = regKpush ∧ regWrite r v s = .next (pushK v s)) ∨
    (r = regQptr ∧ regWrite r v s = .next (onConfigured s (s.setQptr v))) ∨
    (r ≠ regCmd ∧ r ≠ regNarg ∧ r ≠ regMpush ∧ r ≠ regKpush ∧ r ≠ regQptr ∧
      regWrite r v s = .next s) := by
  fin_cases r <;> simp [regWrite, regCmd, regNarg, regMpush, regKpush, regQptr]

/-- Everything a step can do (20_memory.md R61). -/
theorem step_cases (s : State) :
    (s.inbox = [] ∧ step s = .next s) ∨
    (∃ r rest, s.inbox = .read r :: rest ∧
      step s = .next (s.accept rest (some (regRead s r)))) ∨
    (∃ r v rest, s.inbox = .write r v :: rest ∧ step s = regWrite r v (s.accept rest none)) ∨
    (∃ p rest, s.inbox = .reset p :: rest ∧ p.wf = true ∧
      step s = .next ((State.resetWith p).accept rest none)) ∨
    (∃ p rest, s.inbox = .reset p :: rest ∧ p.wf = false ∧
      step s = .fault .capacityOutOfRange) := by
  unfold step serve
  cases hi : s.inbox with
  | nil => simp
  | cons e rest =>
    cases e with
    | read r => exact .inr (.inl ⟨r, rest, rfl, rfl⟩)
    | write r v => exact .inr (.inr (.inl ⟨r, v, rest, rfl, rfl⟩))
    | reset p =>
      cases hp : p.wf with
      | true => exact .inr (.inr (.inr (.inl ⟨p, rest, rfl, hp, by simp [performReset, hp]⟩)))
      | false => exact .inr (.inr (.inr (.inr ⟨p, rest, rfl, hp, by simp [performReset, hp]⟩)))

/-- Every register write answers a next state. -/
theorem regWrite_next (r : Fin 16) (v : Word) (s : State) : ∃ t, regWrite r v s = .next t := by
  rcases regWrite_cases r v s with ⟨-, h⟩ | ⟨-, h⟩ | ⟨-, h⟩ | ⟨-, h⟩ | ⟨-, h⟩ | ⟨-, -, -, -, -, h⟩
  · rcases writeCmd_cases v s with ⟨i, -, h'⟩ | ⟨_, -, h'⟩
    · obtain ⟨t, ht⟩ := exec_next i s
      exact ⟨t, by rw [h, h', ht]⟩
    · exact ⟨_, by rw [h, h']⟩
  all_goals exact ⟨_, h⟩

end Sys2Proof.Machine
end

