-- ==== Sys2Proof/Laws/Rotation.lean ====
section
/-! SUPPORT. The small lemmas of the Rotation Cipher's functions (spec/41_rotation.md section 1). -/

namespace Sys2Proof.Machine

variable {A : Cells} {P : Byte}

theorem rotCell_pad (i : Nat) : rotCell A P i P = .ok P := by
  simp [rotCell]

theorem rotCell_sym (h : AlphabetOk A P) (i : Nat) (g : Idx) :
    rotCell A P i (sym A g) = .ok (sym A (g + 32#6)) := by
  simp [rotCell, sym_ne_pad h g, lookup_sym h.1 h.2.1]

/-- The two cells `rot` accepts and what it makes of them (R130). -/
theorem rotCell_eq_ok_iff {i : Nat} {c d : Byte} :
    rotCell A P i c = .ok d ↔
      (c = P ∧ d = P) ∨ (c ≠ P ∧ ∃ g, idx A c = some g ∧ d = sym A (g + 32#6)) := by
  unfold rotCell
  by_cases hc : c = P
  · simp [hc, eq_comm]
  · unfold lookup
    cases hi : idx A c <;> simp [hc, eq_comm]

theorem rotCell_eq_error_iff {i : Nat} {c : Byte} {e : FnError} :
    rotCell A P i c = .error e ↔ c ≠ P ∧ c ∉ A ∧ e = .invsym i false := by
  rw [← idx_eq_none_iff]
  unfold rotCell
  by_cases hc : c = P
  · simp [hc]
  · unfold lookup
    cases hi : idx A c <;> simp [hc, eq_comm]

/-- `rot` keeps the length (R130). -/
theorem rot_length {E R : Cells} (h : rot A P E = .ok R) : R.length = E.length := scan_length h

/-- What a failing `rot` raises: `INVSYM` at the least cell that is neither symbol nor marker. -/
theorem rot_eq_error_iff {E : Cells} {e : FnError} :
    rot A P E = .error e ↔
      ∃ j c, E[j]? = some c ∧ c ≠ P ∧ c ∉ A ∧ e = .invsym j false ∧
        ∀ j' c', j' < j → E[j']? = some c' → c' = P ∨ c' ∈ A := by
  unfold rot
  rw [scan_eq_error_iff]
  constructor
  · rintro ⟨j, c, h1, h2, h3⟩
    obtain ⟨h4, h5, h6⟩ := rotCell_eq_error_iff.mp h2
    refine ⟨j, c, h1, h4, h5, by simpa using h6, fun j' c' hj hc => ?_⟩
    obtain ⟨b, hb⟩ := h3 j' c' hj hc
    by_contra hn
    rw [not_or] at hn
    rw [(rotCell_eq_error_iff (e := .invsym (0 + j') false)).mpr ⟨hn.1, hn.2, rfl⟩] at hb
    simp at hb
  · rintro ⟨j, c, h1, h2, h3, h4, h5⟩
    refine ⟨j, c, h1, rotCell_eq_error_iff.mpr ⟨h2, h3, by simpa using h4⟩, fun j' c' hj hc => ?_⟩
    cases hk : rotCell A P (0 + j') c' with
    | ok b => exact ⟨b, rfl⟩
    | error e' =>
      obtain ⟨h6, h7, -⟩ := rotCell_eq_error_iff.mp hk
      rcases h5 j' c' hj hc with h | h
      · exact absurd h h6
      · exact absurd h h7

/-- Rotating symbols followed by markers rotates the symbols and keeps the markers. -/
theorem rot_symbols_markers (h : AlphabetOk A P) (gs : List Idx) (n : Nat) :
    rot A P (gs.map (sym A) ++ List.replicate n P) =
      .ok ((gs.map (· + 32#6)).map (sym A) ++ List.replicate n P) := by
  unfold rot
  rw [scan_eq_ok_iff]
  refine ⟨by simp, fun j c hj => ?_⟩
  by_cases hlt : j < gs.length
  · rw [List.getElem?_append_left (by simpa using hlt)] at hj ⊢
    rw [List.getElem?_map, List.getElem?_eq_getElem hlt, Option.map_some, Option.some_inj] at hj
    refine ⟨sym A (gs[j] + 32#6), by simp [hlt], ?_⟩
    rw [← hj, rotCell_sym h]
  · rw [List.getElem?_append_right (by simpa using hlt)] at hj ⊢
    simp only [List.length_map] at hj ⊢
    obtain rfl : c = P := by
      have := List.mem_of_getElem? hj
      exact (List.mem_replicate.mp this).2
    exact ⟨c, hj, rotCell_pad _⟩

/-- The ciphertext of the Rotation Cipher: the rotated symbols of the groups, padded (R131). -/
theorem encryptRotation_eq (h : AlphabetOk A P) (T : Cells) :
    encryptRotation A P T =
      .ok (pad4 P (((groupsOf (textToBits T)).map (· + 32#6)).map (sym A))) := by
  unfold encryptRotation encodeText bitsToEncoded
  rw [bitsToSyms_eq]
  unfold pad4
  rw [rot_symbols_markers h]
  simp

end Sys2Proof.Machine
end

