-- ==== Sys2Proof/Tests/Slice0.lean ====
section
/-! SUPPORT. Tests on fixed values: the checks of WellFormed, the decoding of every command word, one
or two vectors of spec/95_test_vectors.md per command, and a witness for the hypotheses of every
statement that has some. Expected values are the spec's own. The theorems are elaborated one after
another: in parallel, the threads of this many closed evaluations reserve more memory than there is. -/

set_option Elab.async false

namespace Sys2Proof.Tests

open Sys2Proof Sys2Proof.Machine Sys2Proof.Claims

/-! ### Small builders -/

/-- The codes of the characters of `x`, as in the quoted strings of 95_test_vectors.md. -/
def str (x : String) : Cells := x.toList.map fun c => BitVec.ofNat 8 c.toNat

/-- The state after a reset that accepts the default table: 10_state.md R39 written out. -/
def base : State where
  cfgok := true
  alpha := defaultSyms
  pad := 0x3D#8
  m := []
  k := []
  q := []
  narg := 0#32
  qptr := 0#32
  erridx := 0#32
  err := 0#4
  errk := false
  mperr := false
  kperr := false
  params := Params.default
  inbox := []
  reply := none

/-- `base` with M and K loaded. -/
def held (m k : String) : State := { base with m := str m, k := str k }

/-- The parameters of V-CAP-1: small capacities. -/
def smallParams : Params := { Params.default with capM := 2, capK := 2, capQ := 4 }

/-- The state after a reset with the parameters of V-CAP-1, with M and K loaded. -/
def small (m k : String) : State := { held m k with params := smallParams }

/-- The FAILED state: the empty sequence of symbols is supplied (V-CFG-9). -/
def failedState : State :=
  { base with cfgok := false, alpha := [], pad := 0#8, err := 1#4,
              params := { Params.default with cfgSyms := [] } }

/-- `s` with a capacity of Q of `n` cells. -/
def room (n : Nat) (s : State) : State := { s with params := { s.params with capQ := n } }

/-- `s` with events to come. -/
def given (es : List Event) (s : State) : State := { s with inbox := es }

/-- The state after one command. -/
def after (i : Instr) (s : State) : State :=
  match exec i s with
  | .next t => t
  | .fault _ => s
  | .refused _ => s

/-- The next state an outcome answers. -/
def nextOf : Host.Outcome State Fault Refusal → Option State
  | .next t => some t
  | .fault _ => none
  | .refused _ => none

theorem of_nextOf {o : Host.Outcome State Fault Refusal} {t : State} (h : nextOf o = some t) :
    o = .next t := by
  cases o with
  | next u => exact congrArg _ (Option.some.inj h)
  | fault _ => cases h
  | refused _ => cases h

/-- What a data vector of 95_test_vectors.md gives: Q, STATUS and ERRIDX. -/
def shows (s : State) (q : String) (status idx : Word) : Bool :=
  s.q == str q && regRead s 1 == status && regRead s 2 == idx

/-! ### The checks of WellFormed refuse ill-formed terms -/

theorem test_wf_capM_zero : ({ Params.default with capM := 0 } : Params).wf = false := by decide
theorem test_wf_capM_large : ({ Params.default with capM := 4294967296 } : Params).wf = false := by
  decide
theorem test_wf_capK_zero : ({ Params.default with capK := 0 } : Params).wf = false := by decide
theorem test_wf_capK_large : ({ Params.default with capK := 4294967296 } : Params).wf = false := by
  decide
theorem test_wf_capQ_zero : ({ Params.default with capQ := 0 } : Params).wf = false := by decide
theorem test_wf_capQ_large : ({ Params.default with capQ := 4294967296 } : Params).wf = false := by
  decide
theorem test_wf_bounds : Params.default.wf = true ∧
    ({ Params.default with capM := 1, capK := 1, capQ := 1 } : Params).wf = true := by decide
theorem test_wordLegal_refuses_high_bits :
    wordLegal 0x00000121#32 = false ∧ wordLegal 0x80000001#32 = false := by decide
theorem test_wordLegal_refuses_opcodes :
    wordLegal 0x00000000#32 = false ∧ wordLegal 0x00000006#32 = false ∧
    wordLegal 0x00000023#32 = false ∧ wordLegal 0x00000035#32 = false ∧
    wordLegal 0x00000040#32 = false := by decide
theorem test_wordLegal_accepts : wordLegal 0x00000021#32 = true := by decide

/-! ### Decoding: words written out from the opcode map of 30_encoding.md R73, R74 -/

theorem test_decode_clr : decodeTableWord 32 0x00000001 = some .clr := by decide
theorem test_decode_clrm : decodeTableWord 32 0x00000002 = some .clrm := by decide
theorem test_decode_clrk : decodeTableWord 32 0x00000003 = some .clrk := by decide
theorem test_decode_qtom : decodeTableWord 32 0x00000004 = some .qtom := by decide
theorem test_decode_qtok : decodeTableWord 32 0x00000005 = some .qtok := by decide
theorem test_decode_t2b : decodeTableWord 32 0x00000010 = some .t2b := by decide
theorem test_decode_b2t : decodeTableWord 32 0x00000011 = some .b2t := by decide
theorem test_decode_b2e : decodeTableWord 32 0x00000012 = some .b2e := by decide
theorem test_decode_e2b : decodeTableWord 32 0x00000013 = some .e2b := by decide
theorem test_decode_strip : decodeTableWord 32 0x00000014 = some .strip := by decide
theorem test_decode_pad4 : decodeTableWord 32 0x00000015 = some .pad4 := by decide
theorem test_decode_enc : decodeTableWord 32 0x00000016 = some .enc := by decide
theorem test_decode_dec : decodeTableWord 32 0x00000017 = some .dec := by decide
theorem test_decode_rots : decodeTableWord 32 0x00000020 = some .rots := by decide
theorem test_decode_encrot : decodeTableWord 32 0x00000021 = some .encrot := by decide
theorem test_decode_decrot : decodeTableWord 32 0x00000022 = some .decrot := by decide
theorem test_decode_repk : decodeTableWord 32 0x00000030 = some .repk := by decide
theorem test_decode_adds : decodeTableWord 32 0x00000031 = some .adds := by decide
theorem test_decode_subs : decodeTableWord 32 0x00000032 = some .subs := by decide
theorem test_decode_encadd : decodeTableWord 32 0x00000033 = some .encadd := by decide
theorem test_decode_decadd : decodeTableWord 32 0x00000034 = some .decadd := by decide

/-- The illegal words of V-CTL-4, rejected by name. -/
theorem test_decode_rejects :
    decode 0x00000000#32 = .error (.noSuchOpcode 0x00#8) ∧
    decode 0x00000006#32 = .error (.noSuchOpcode 0x06#8) ∧
    decode 0x00000040#32 = .error (.noSuchOpcode 0x40#8) ∧
    decode 0x00000131#32 = .error (.zeroField 0x000001#24) ∧
    decode 0x80000001#32 = .error (.zeroField 0x800000#24) := by decide

/-! ### The port and reset -/

/-- The small states of these tests are what a reset leaves. -/
theorem test_reset_base : State.reset = base ∧
    State.resetWith { Params.default with cfgSyms := [] } = failedState ∧
    State.resetWith smallParams = small "" "" := by decide +kernel

/-- V-PORT-1: the sixteen registers after reset. -/
theorem test_port_reset_reads :
    (List.finRange 16).map (regRead base) =
      [0, 1, 0, 0, 0, 0, 0, 0, 0, 0, 0, 0, 0, 0, 0, 0] := by decide +kernel

/-- V-CFG-16: in the FAILED state every register but STATUS reads 0. -/
theorem test_port_failed_reads :
    (List.finRange 16).map (regRead failedState) =
      [0, 0x10, 0, 0, 0, 0, 0, 0, 0, 0, 0, 0, 0, 0, 0, 0] := by decide +kernel

/-- V-PORT-4: a push of 0x100 is refused and sets `MPERR`. -/
theorem test_port_wide_push :
    runFor 3 (given [.write 7 0x41#32, .write 7 0x100#32, .read 1] base) =
      .next { base with m := [0x41#8], mperr := true, reply := some 0x00000003#32 } :=
  of_nextOf (by decide +kernel)

/-- V-CTL-1: an illegal word keeps Q and QPTR. -/
theorem test_illegal_word_keeps_the_result :
    step (given [.write 0 0x000000FF#32]
        { held "Crypto" "" with q := str "Q3J5cHRv", qptr := 3#32 }) =
      .next { held "Crypto" "" with q := str "Q3J5cHRv", qptr := 3#32, err := 6#4 } :=
  of_nextOf (by decide +kernel)

/-- V-CFG-2 and V-CFG-11: the repair of 62 symbols, and the marker found among the repaired ones. -/
theorem test_config_repair :
    loadConfig { Params.default with cfgSyms := defaultSyms.take 62 } =
      some (defaultSyms, 0x3D#8) ∧
    loadConfig { Params.default with cfgSyms := defaultSyms.take 62, cfgPad := 0x2B#8 } = none := by
  decide +kernel

/-- V-CFG-3, V-CFG-4, V-CFG-5, V-CFG-6, V-CFG-7: refused configurations. -/
theorem test_config_refused :
    loadConfig { Params.default with cfgSyms := defaultSyms.take 63 } = none ∧
    loadConfig { Params.default with cfgSyms := defaultSyms.take 63 ++ [0x41#8] } = none ∧
    loadConfig { Params.default with cfgSyms := defaultSyms ++ [0x2D#8] } = none ∧
    loadConfig { Params.default with cfgPad := 0x41#8 } = none ∧
    loadConfig { Params.default with cfgSyms := defaultSyms.take 61 ++ [0x2B#8] } = none := by
  decide +kernel

/-- A step runs the word that `withFetchWord` places, as the first one after reset. -/
theorem test_step_runs_the_first_command :
    step (State.reset.withFetchWord 32 0x00000016) = .next (after .enc State.reset) :=
  of_nextOf (by decide +kernel)

/-! ### The commands: vectors of 95_test_vectors.md -/

/-- V-CTL-6. -/
theorem test_clr :
    after .clr { held "A" "K" with narg := 5#32, q := str "QQ==", qptr := 1#32, kperr := true } =
      base := by decide +kernel
/-- V-CTL-2. -/
theorem test_clrm :
    after .clrm { held "Crypto" "K" with q := str "Q3J5cHRv", qptr := 3#32, mperr := true, err := 6#4 }
      = { held "" "K" with q := str "Q3J5cHRv", qptr := 3#32 } := by decide +kernel
/-- The example of 43_buffer_control.md R162. -/
theorem test_clrk : after .clrk { held "abc" "KEY" with kperr := true } = held "abc" "" := by
  decide +kernel
/-- The example of 43_buffer_control.md R163. -/
theorem test_qtom :
    after .qtom { held "A" "" with q := str "QQ==", mperr := true } =
      { held "QQ==" "" with q := str "QQ==" } := by decide +kernel
/-- V-CAP-5: a result of 4 cells does not fit M. -/
theorem test_qtom_capacity :
    after .qtom { small "AB" "" with q := str "QUI=", mperr := true } =
      { small "AB" "" with q := str "QUI=", mperr := true, err := 5#4 } := by decide +kernel
/-- The example of 43_buffer_control.md R164. -/
theorem test_qtok :
    after .qtok { held "S0VZ" "x" with q := str "S0VZ", kperr := true } =
      { held "S0VZ" "S0VZ" with q := str "S0VZ" } := by decide +kernel
/-- V-CAP-5 with `QTOK`. -/
theorem test_qtok_capacity :
    after .qtok { small "AB" "K" with q := str "QUI=" } =
      { small "AB" "K" with q := str "QUI=", err := 5#4 } := by decide +kernel
/-- V-T2B-3. -/
theorem test_t2b : shows (after .t2b (held "AB" "")) "0100000101000010" 0x01 0 = true := by
  decide +kernel
/-- V-CAP-4. -/
theorem test_t2b_capacity : shows (after .t2b (small "AB" "")) "" 0x51 0 = true := by decide +kernel
/-- V-B2T-7. -/
theorem test_b2t : shows (after .b2t (held "0100000101000010010" "")) "AB" 0x01 0 = true := by
  decide +kernel
/-- V-B2T-10: the bad cell stands in the tail that would be dropped. -/
theorem test_b2t_badbit : shows (after .b2t (held "010000012" "")) "" 0x41 8 = true := by
  decide +kernel
/-- V-B2E-14. -/
theorem test_b2e :
    shows (after .b2e (held "0100000101000010010000110" "")) "QUJDA===" 0x01 0 = true := by
  decide +kernel
/-- V-B2E-15. -/
theorem test_b2e_badbit : shows (after .b2e (held "012" "")) "" 0x41 2 = true := by decide +kernel
/-- V-E2B-6. -/
theorem test_e2b : shows (after .e2b (held "QUI=" "")) "010000010100001000" 0x01 0 = true := by
  decide +kernel
/-- V-E2B-13: an interior marker. -/
theorem test_e2b_marker : shows (after .e2b (held "Q=Q=" "")) "" 0x21 1 = true := by decide +kernel
/-- V-STRIP-5. -/
theorem test_strip : shows (after .strip (held "QQ====" "")) "QQ" 0x01 0 = true := by decide +kernel
/-- V-STRIP-9. -/
theorem test_strip_interior : shows (after .strip (held "Q=Q=" "")) "Q=Q" 0x01 0 = true := by
  decide +kernel
/-- V-PAD4-6. -/
theorem test_pad4 : shows (after .pad4 (held "Q" "")) "Q===" 0x01 0 = true := by decide +kernel
/-- V-PAD4-5: the cells are counted, markers too. -/
theorem test_pad4_padded : shows (after .pad4 (held "QQ====" "")) "QQ======" 0x01 0 = true := by
  decide +kernel
/-- V-ENC-13. -/
theorem test_enc : shows (after .enc (held "Hello" "")) "SGVsbG8=" 0x01 0 = true := by
  decide +kernel
/-- V-PORT-5: the push flag of M. -/
theorem test_enc_flagged :
    shows (after .enc { held "A" "" with mperr := true }) "" 0x73 0 = true := by
  decide +kernel
/-- V-DEC-12: the dropped bits need not be zero. -/
theorem test_dec : shows (after .dec (held "QR" "")) "A" 0x01 0 = true := by decide +kernel
/-- V-DEC-16. -/
theorem test_dec_marker : shows (after .dec (held "=Q" "")) "" 0x21 0 = true := by decide +kernel
/-- V-ROTS-4: the wrap in both directions. -/
theorem test_rots : shows (after .rots (held "A/+9" "")) "gfed" 0x01 0 = true := by decide +kernel
/-- V-ROTS-11. -/
theorem test_rots_bad : shows (after .rots (held "a b" "")) "" 0x21 1 = true := by decide +kernel
/-- V-ENCROT-8. -/
theorem test_encrot : shows (after .encrot (held "Hello" "")) "ym1M7mc=" 0x01 0 = true := by
  decide +kernel
/-- V-DECROT-10. -/
theorem test_decrot : shows (after .decrot (held "ym1M7mc" "")) "Hello" 0x01 0 = true := by
  decide +kernel
/-- V-DECROT-15: the cell outside the Alphabet comes before the misplaced marker. -/
theorem test_decrot_order : shows (after .decrot (held "w=*w" "")) "" 0x21 2 = true := by
  decide +kernel
/-- V-REPK-1. -/
theorem test_repk :
    shows (after .repk { held "zzz" "KEY" with narg := 10#32 }) "KEYKEYKEYK" 0x01 0 = true := by
  decide +kernel
/-- V-REPK-6. -/
theorem test_repk_empty : shows (after .repk (held "zzz" "")) "" 0x31 0 = true := by decide +kernel
/-- V-ADDS-1. -/
theorem test_adds : shows (after .adds (held "Q3J5cHRv" "S0VZ")) "ireSu7mI" 0x01 0 = true := by
  decide +kernel
/-- V-ADDS-14: the bad key cell lies beyond what M would use. -/
theorem test_adds_key : shows (after .adds (held "Q" "S0V*")) "" 0x29 3 = true := by decide +kernel
/-- V-SUBS-4: a difference below 0 wraps. -/
theorem test_subs : shows (after .subs (held "DK" "K")) "5A" 0x01 0 = true := by decide +kernel
/-- V-SUBS-8. -/
theorem test_subs_marker : shows (after .subs (held "ir=S" "S0VZ")) "" 0x21 2 = true := by
  decide +kernel
/-- V-ENCADD-3. -/
theorem test_encadd : shows (after .encadd (held "Hello" "key")) "s8ql18R" 0x01 0 = true := by
  decide +kernel
/-- V-ENCADD-11. -/
theorem test_encadd_empty_key : shows (after .encadd (held "" "")) "" 0x31 0 = true := by
  decide +kernel
/-- V-DECADD-17: a wrong key gives a result. -/
theorem test_decadd : shows (after .decadd (held "ireSu7mI" "KEX")) "Crzptp" 0x01 0 = true := by
  decide +kernel
/-- V-DECADD-13: a trailing marker is not stripped. -/
theorem test_decadd_marker : shows (after .decadd (held "ire=" "KEY")) "" 0x21 3 = true := by
  decide +kernel

/-! ### Witnesses: states that meet the hypotheses of the statements

Each theorem is named after its statement; its conjuncts meet the hypotheses of the clauses of that
statement, in their order, at the boundary of their range. -/

/-- The states `held m k` and `room n (held m k)` of the witnesses are out of the FAILED state, with an
accepted Alphabet and marker. -/
abbrev AllAccepted : Prop := ∀ m k n,
  ((held m k).cfgok = true ∧ AlphabetOk (held m k).alpha (held m k).pad) ∧
  ((room n (held m k)).cfgok = true ∧ AlphabetOk (room n (held m k)).alpha (room n (held m k)).pad)

/-- The Alphabet and the marker of the default column of 00_scope.md R5 are accepted ones. -/
theorem default_alphabetOk : AlphabetOk defaultSyms 0x3D#8 := by decide +kernel

theorem allAccepted : AllAccepted := fun _ _ _ =>
  ⟨⟨rfl, default_alphabetOk⟩, ⟨rfl, default_alphabetOk⟩⟩

/-- The invariants of Safety.lean hold with an error recorded in M, and with one recorded in K. -/
theorem witness_EveryStepKeepsTheErrorRecordTrue :
    (given [.read 2] { held "Q*" "S" with err := 2#4, erridx := 1#32 }).Sound ∧
    (given [.read 2] { held "Q*" "S" with err := 2#4, erridx := 1#32 }).ErrorRecordTrue ∧
    step (given [.read 2] { held "Q*" "S" with err := 2#4, erridx := 1#32 }) =
      .next { held "Q*" "S" with err := 2#4, erridx := 1#32, reply := some 1#32 } ∧
    (given [.write 0 0x16#32]
      { held "Q" "S*" with err := 2#4, erridx := 1#32, errk := true }).Sound ∧
    (given [.write 0 0x16#32]
      { held "Q" "S*" with err := 2#4, erridx := 1#32, errk := true }).ErrorRecordTrue := by
  refine ⟨?_, ?_, of_nextOf ?_, ?_, ?_⟩ <;> decide +kernel

/-- A state with full buffers steps; so does the FAILED state. -/
theorem witness_EveryStepKeepsTheStateSound :
    (given [.write 7 0x41#32] (small "AB" "")).Sound ∧
    step (given [.write 7 0x41#32] (small "AB" "")) = .next { small "AB" "" with mperr := true } ∧
    (given [.write 7 0x41#32] failedState).Sound ∧
    step (given [.write 7 0x41#32] failedState) = .next failedState := by
  refine ⟨?_, of_nextOf ?_, ?_, of_nextOf ?_⟩ <;> decide +kernel

theorem witness_IllegalWordReportsIllcmdOnly :
    base.cfgok = true ∧ (given [.write 0 0x101#32] base).inbox = .write 0 0x101#32 :: [] ∧
    (0x00000101#32).extractLsb' 8 24 ≠ 0#24 ∧ (0x80000001#32).extractLsb' 8 24 ≠ 0#24 ∧
    [0x00#32, 0x06#32, 0x0F#32, 0x18#32, 0x23#32, 0x35#32, 0xFF#32].all (fun w =>
      w.extractLsb' 8 24 == 0#24 && !legalOpcodes.contains (w.extractLsb' 0 8)) = true := by
  decide +kernel

theorem witness_StepRunsTheDecodedCommand :
    (given [.write 0 0x00000034#32] base).inbox = .write 0 0x00000034#32 :: [] ∧
    decode 0x00000034#32 = .ok .decadd ∧ Instr.decadd.wf = true := by decide +kernel

/-- Both states of the configuration; `QPTR` at the last cell of Q and just beyond it. -/
theorem witness_RegisterReadsAnswerTheViews :
    (given [.read 15] base).inbox = .read 15 :: [] ∧ base.cfgok = true ∧
    failedState.cfgok = false ∧
    ({ held "" "" with q := str "QQ==", qptr := 3#32 } : State).q[3]? = some 0x3D#8 ∧
    ({ held "" "" with q := str "QQ==", qptr := 4#32 } : State).q.length ≤ 4 := by decide +kernel

/-- A push of 255 into the last free cell, of 256 with room, of 255 into a full buffer, for M and for
K; each push flag with a command that reads the buffer. -/
theorem witness_PushesAppendOrAreRefused :
    (small "A" "K").cfgok = true ∧ (255#32).toNat = (0xFF#8).toNat ∧ 255 < (256#32).toNat ∧
    (small "A" "K").m.length < (small "A" "K").params.capM ∧
    (small "A" "K").k.length < (small "A" "K").params.capK ∧
    (small "AB" "KE").params.capM ≤ (small "AB" "KE").m.length ∧
    (small "AB" "KE").params.capK ≤ (small "AB" "KE").k.length ∧
    ({ small "A" "K" with mperr := true, kperr := true } : State).mperr = true ∧
    Instr.decadd ∈ dataCommands ∧ Instr.decadd ≠ .repk ∧ Instr.repk ∈ keyedCommands := by
  decide +kernel

theorem witness_OtherRegisterWrites :
    base.cfgok = true ∧
    (given [.write 3 5#32] base).inbox = .write 3 5#32 :: [] ∧
    (given [.write 9 5#32] base).inbox = .write 9 5#32 :: [] ∧
    (∀ r ∈ ([1, 2, 4, 5, 6, 10, 11, 15] : List (Fin 16)),
      r ≠ 0 ∧ r ≠ 3 ∧ r ≠ 7 ∧ r ≠ 8 ∧ r ≠ 9) := by decide +kernel

/-- 61 and 63 to 65 symbols, two equal symbols, the marker a symbol: the load fails; and the FAILED
state with each kind of event. -/
theorem witness_FailedStateIgnoresEverything :
    loadConfig { Params.default with cfgSyms := defaultSyms.take 61 } = none ∧
    loadConfig { Params.default with cfgSyms := defaultSyms.take 63 } = none ∧
    loadConfig { Params.default with cfgPad := 0x2F#8 } = none ∧ failedState.cfgok = false ∧
    (given [.write 0 1#32] failedState).inbox = .write 0 1#32 :: [] ∧
    (given [.read 1] failedState).inbox = .read 1 :: [] ∧ (0 : Fin 16) ≠ 1 ∧
    (given [.read 0] failedState).inbox = .read 0 :: [] := by decide +kernel

/-- Operands of no cell, of as many as fit (`CAP_M` = 2), and of one more. -/
theorem witness_ClearThenPushesLoadTheMessage :
    (small "" "").cfgok = true ∧
    (given (.write 0 (encode .clrm) :: ([] : List Event)) (small "zz" "")).inbox =
      .write 0 (encode .clrm) :: (([] : Cells).map fun c => .write 7 (c.setWidth 32)) ++ [] ∧
    (given [.write 0 2#32, .write 7 0x41#32, .write 7 0xFF#32] (small "zz" "")).inbox =
      .write 0 (encode .clrm) :: ([0x41#8, 0xFF#8].map fun c => .write 7 (c.setWidth 32)) ++ [] ∧
    (given [.write 0 2#32, .write 7 0x41#32, .write 7 0xFF#32, .write 7 0#32] (small "zz" "")).inbox =
      .write 0 (encode .clrm) :: ([0x41#8, 0xFF#8, 0#8].map fun c => .write 7 (c.setWidth 32)) ++ [] := by
  decide +kernel

theorem witness_PointerThenDataReadsTheResult :
    (held "" "").cfgok = true ∧
    ({ held "" "" with q := str "QQ==" } : State).q[(3#32).toNat]? = some 0x3D#8 ∧
    (given [.write 9 3#32, .read 10] (held "" "")).inbox = .write 9 3#32 :: .read 10 :: [] := by
  decide +kernel

/-- A reset with 62 symbols that are repaired, with 64 that are accepted, and with 62 that hold `+`. -/
theorem witness_ResetLoadsTheConfiguration :
    ({ Params.default with capM := 1 } : Params).wf = true ∧
    (defaultSyms.take 62).length = 62 ∧ (defaultSyms.take 62).Nodup ∧
    0x2B#8 ∉ defaultSyms.take 62 ∧ 0x2F#8 ∉ defaultSyms.take 62 ∧
    (defaultSyms.take 62 ++ [0x2B#8, 0x2F#8]).length = 64 ∧
    (defaultSyms.take 62 ++ [0x2B#8, 0x2F#8]).Nodup ∧
    0x3D#8 ∉ defaultSyms.take 62 ++ [0x2B#8, 0x2F#8] ∧ defaultSyms.length ≠ 62 ∧
    0x2B#8 ∈ defaultSyms.take 61 ++ [0x2B#8] ∧ (defaultSyms.take 61 ++ [0x2B#8]).length ≠ 64 := by
  decide +kernel

theorem witness_ResetMeetsTheInvariants :
    ({ Params.default with capM := 1, capK := 1, capQ := 1 } : Params).wf = true ∧
    ({ Params.default with cfgSyms := [] } : Params).wf = true := by decide +kernel

theorem witness_OnlyAResetChangesTheConfiguration :
    step (given [.write 0 1#32] (held "A" "K")) = .next base ∧
    (∀ (p : Params) (rest : List Event), [Event.write 0 1#32] ≠ .reset p :: rest) := by
  exact ⟨of_nextOf (by decide +kernel), by simp⟩

/-- A push changes M, a push changes K. -/
theorem witness_WhatChangesTheOperandBuffers :
    step (given [.write 7 0x41#32] base) = .next (held "A" "") ∧
    (held "A" "").m ≠ base.m ∧
    step (given [.write 8 0x41#32] base) = .next (held "" "A") ∧
    (held "" "A").k ≠ base.k := by
  refine ⟨of_nextOf ?_, ?_, of_nextOf ?_, ?_⟩ <;> decide +kernel

/-- A data command changes Q and QPTR; one fails. -/
theorem witness_WhatChangesTheResultBuffer :
    step (given [.write 0 0x16#32] { held "A" "" with qptr := 3#32 }) =
      .next { held "A" "" with q := str "QQ==" } ∧
    str "QQ==" ≠ [] ∧ (held "=Q" "").cfgok = true ∧ Instr.dec ∈ dataCommands ∧
    (after .dec (held "=Q" "")).err ≠ 0#4 := by
  refine ⟨of_nextOf ?_, ?_, ?_, ?_, ?_⟩ <;> decide +kernel

/-- NARG written, each flag set and cleared, the error registers written. -/
theorem witness_WhatChangesTheFlagsAndNarg :
    step (given [.write 3 5#32] base) = .next { base with narg := 5#32 } ∧
    step (given [.write 7 256#32] base) = .next { base with mperr := true } ∧
    step (given [.write 0 2#32] { base with mperr := true }) = .next base ∧
    step (given [.write 8 256#32] base) = .next { base with kperr := true } ∧
    step (given [.write 0 3#32] { base with kperr := true }) = .next base ∧
    step (given [.write 0 0#32] base) = .next { base with err := 6#4 } := by
  refine ⟨of_nextOf ?_, of_nextOf ?_, of_nextOf ?_, of_nextOf ?_, of_nextOf ?_, of_nextOf ?_⟩ <;>
    decide +kernel

/-- Two states that differ in all the commands named must not depend on. -/
theorem witness_DataResultsDependOnTheOperandsOnly :
    (held "A" "K").cfgok = true ∧ ({ held "A" "KE" with q := [0#8], narg := 7#32 } : State).cfgok = true ∧
    (held "A" "K").alpha = ({ held "A" "KE" with q := [0#8], narg := 7#32 } : State).alpha ∧
    (held "A" "K").m = ({ held "A" "KE" with q := [0#8], narg := 7#32 } : State).m ∧
    Instr.enc ∈ dataCommands ∧ Instr.enc ∉ keyedCommands ∧ Instr.enc ≠ .repk ∧
    Instr.repk ∈ dataCommands ∧ (held "A" "K").k = (held "B" "K").k ∧ Instr.adds ∈ dataCommands := by
  decide +kernel

/-! #### The buffer control commands -/

theorem witness_ClrClearsWhatTheHostCanClear :
    (held "A" "K").cfgok = true ∧ (held "A" "K").ConfigAsLoaded := by decide +kernel

theorem witness_ClrmClearsTheMessage :
    ({ held "A" "K" with mperr := true } : State).cfgok = true := by
  decide +kernel

theorem witness_ClrkClearsTheKey :
    (held "A" "K").cfgok = true ∧ (held "A" "K").mperr = false ∧ Instr.decadd ∈ keyedCommands := by
  decide +kernel

/-- A result that just fits M, and one cell more. -/
theorem witness_QtomCopiesTheResultToTheMessage :
    (small "" "").cfgok = true ∧
    ({ small "" "" with q := str "QQ" } : State).q.length ≤ (small "" "").params.capM ∧
    (small "" "").params.capM < ({ small "" "" with q := str "QQ=" } : State).q.length := by
  decide +kernel

theorem witness_QtokCopiesTheResultToTheKey :
    (small "" "").cfgok = true ∧
    ({ small "" "" with q := str "QQ" } : State).q.length ≤ (small "" "").params.capK ∧
    (small "" "").params.capK < ({ small "" "" with q := str "QQ=" } : State).q.length ∧
    (small "" "").q = [] ∧ (small "" "").mperr = false ∧ Instr.repk ∈ keyedCommands := by
  decide +kernel

/-! #### The Bit Codec commands -/

/-- The push flag; a result one cell too long; one that just fits. -/
theorem witness_T2bWritesTheBitsOfTheText :
    AllAccepted ∧
    ({ held "A" "" with mperr := true } : State).mperr = true ∧
    (room 15 (held "AB" "")).cfgok = true ∧ (room 15 (held "AB" "")).mperr = false ∧
    (room 15 (held "AB" "")).params.capQ < 8 * (held "AB" "").m.length ∧
    8 * (held "AB" "").m.length ≤ (room 16 (held "AB" "")).params.capQ :=
  ⟨allAccepted, by decide +kernel⟩

/-- V-B2T-10; then 16 bit cells with room for 1 and for 2 characters. -/
theorem witness_B2tReadsTheBitsAsText :
    AllAccepted ∧
    (held "010000012" "").cfgok = true ∧ (held "010000012" "").mperr = false ∧
    FirstBad (held "010000012" "").m BitCell 8 0x32#8 ∧
    (∀ c ∈ (held "0100000101000010" "").m, BitCell c) ∧
    (room 1 (held "0100000101000010" "")).params.capQ < (held "0100000101000010" "").m.length / 8 ∧
    (held "0100000101000010" "").m.length / 8 ≤ (room 2 (held "0100000101000010" "")).params.capQ :=
  ⟨allAccepted, by decide +kernel⟩

/-- V-B2E-15; then 7 bit cells, which make 4 cells, with room for 3 and for 4. -/
theorem witness_B2eEncodesTheBits :
    AllAccepted ∧
    (held "012" "").cfgok = true ∧ (held "012" "").mperr = false ∧
    FirstBad (held "012" "").m BitCell 2 0x32#8 ∧
    (∀ c ∈ (held "1111111" "").m, BitCell c) ∧
    (room 3 (held "1111111" "")).params.capQ <
      4 * ((((held "1111111" "").m.length + 5) / 6 + 3) / 4) ∧
    4 * ((((held "1111111" "").m.length + 5) / 6 + 3) / 4) ≤
      (room 4 (held "1111111" "")).params.capQ :=
  ⟨allAccepted, by decide +kernel⟩

/-- V-E2B-13; then V-E2B-2 with room for 11 and for 12 bits. -/
theorem witness_E2bWritesTheBitsOfTheSymbols :
    AllAccepted ∧
    (held "Q=Q=" "").mperr = false ∧
    TrailingMarkers (held "" "").pad (held "Q=Q=" "").m (str "Q=Q") 1 ∧
    FirstBad (str "Q=Q") (· ∈ (held "" "").alpha) 1 0x3D#8 ∧
    TrailingMarkers (held "" "").pad (held "QQ==" "").m (str "QQ") 2 ∧
    Indices (held "" "").alpha (str "QQ") [16#6, 16#6] ∧
    (room 11 (held "QQ==" "")).params.capQ < 6 * [16#6, 16#6].length ∧
    6 * [16#6, 16#6].length ≤ (room 12 (held "QQ==" "")).params.capQ :=
  ⟨allAccepted, by decide +kernel⟩

theorem witness_StripDropsTheTrailingMarkers :
    AllAccepted ∧
    (held "QQ==" "").mperr = false ∧
    TrailingMarkers (held "" "").pad (held "QQ==" "").m (str "QQ") 2 ∧
    TrailingMarkers (held "" "").pad (held "====" "").m [] 4 ∧
    (room 1 (held "QQ==" "")).params.capQ < (str "QQ").length ∧
    (str "QQ").length ≤ (room 2 (held "QQ==" "")).params.capQ :=
  ⟨allAccepted, by decide +kernel⟩

/-- 5 cells take 3 markers, 4 cells none; no room and just room for 8 cells. -/
theorem witness_Pad4FillsToAMultipleOfFour :
    AllAccepted ∧
    (held "QUJDA" "").mperr = false ∧ 3 < 4 ∧ ((held "QUJDA" "").m.length + 3) % 4 = 0 ∧
    ((held "QUJD" "").m.length + 0) % 4 = 0 ∧
    (room 7 (held "QUJDA" "")).params.capQ < (held "QUJDA" "").m.length + 3 ∧
    (held "QUJDA" "").m.length + 3 ≤ (room 8 (held "QUJDA" "")).params.capQ :=
  ⟨allAccepted, by decide +kernel⟩

theorem witness_EncEncodesTheText :
    AllAccepted ∧
    (held "AB" "").mperr = false ∧
    (room 3 (held "AB" "")).params.capQ < paddedCount (held "AB" "").m.length ∧
    paddedCount (held "AB" "").m.length ≤ (room 4 (held "AB" "")).params.capQ :=
  ⟨allAccepted, by decide +kernel⟩

/-- V-DEC-13; then V-DEC-6 with room for 1 and for 2 characters. -/
theorem witness_DecDecodesTheSymbols :
    AllAccepted ∧
    (held "Q=Q=" "").mperr = false ∧
    TrailingMarkers (held "" "").pad (held "Q=Q=" "").m (str "Q=Q") 1 ∧
    FirstBad (str "Q=Q") (· ∈ (held "" "").alpha) 1 0x3D#8 ∧
    TrailingMarkers (held "" "").pad (held "QUI=" "").m (str "QUI") 1 ∧
    Indices (held "" "").alpha (str "QUI") [16#6, 20#6, 8#6] ∧
    (room 1 (held "QUI=" "")).params.capQ < 3 * [16#6, 20#6, 8#6].length / 4 ∧
    3 * [16#6, 20#6, 8#6].length / 4 ≤ (room 2 (held "QUI=" "")).params.capQ :=
  ⟨allAccepted, by decide +kernel⟩

/-! #### The rotation commands -/

/-- V-ROTS-8; then V-ROTS-6, the wrap from index 32 to 0, with room for 1 and for 2 cells, and a
marker. -/
theorem witness_RotsRotatesEverySymbol :
    AllAccepted ∧
    (held "ab*d" "").mperr = false ∧
    FirstBad (held "ab*d" "").m (fun c => c ∈ (held "" "").alpha ∨ c = (held "" "").pad) 2 0x2A#8 ∧
    (∀ c ∈ (held "g=" "").m, c ∈ (held "" "").alpha ∨ c = (held "" "").pad) ∧
    (room 1 (held "g=" "")).params.capQ < (held "g=" "").m.length ∧
    (held "g=" "").m.length ≤ (room 2 (held "g=" "")).params.capQ ∧
    (held "g=" "").m[0]? = (held "" "").alpha[(32#6).toNat]? ∧
    (held "g=" "").m[1]? = some (held "" "").pad :=
  ⟨allAccepted, by decide +kernel⟩

theorem witness_EncrotRotatesTheEncoding :
    AllAccepted ∧
    (held "A" "").mperr = false ∧
    (room 3 (held "A" "")).params.capQ < paddedCount (held "A" "").m.length ∧
    paddedCount (held "A" "").m.length ≤ (room 4 (held "A" "")).params.capQ :=
  ⟨allAccepted, by decide +kernel⟩

/-- V-DECROT-15; V-DECROT-14; then V-DECROT-2, indices 48 to 16, with room for 0 and for 1 cell. -/
theorem witness_DecrotDecodesTheRotatedSymbols :
    AllAccepted ∧
    (held "w=*w" "").mperr = false ∧
    FirstBad (held "w=*w" "").m (fun c => c ∈ (held "" "").alpha ∨ c = (held "" "").pad) 2 0x2A#8 ∧
    (∀ c ∈ (held "w=w=" "").m, c ∈ (held "" "").alpha ∨ c = (held "" "").pad) ∧
    TrailingMarkers (held "" "").pad (held "w=w=" "").m (str "w=w") 1 ∧
    FirstBad (str "w=w") (· ≠ (held "" "").pad) 1 (held "" "").pad ∧
    TrailingMarkers (held "" "").pad (held "ww==" "").m (str "ww") 2 ∧
    Indices (held "" "").alpha (str "ww") [48#6, 48#6] ∧
    [16#6, 16#6].map (fun h => (h.toNat : Int)) =
      [48#6, 48#6].map (fun g => ((g.toNat : Int) - 32) % 64) ∧
    (room 0 (held "ww==" "")).params.capQ < 3 * [48#6, 48#6].length / 4 ∧
    3 * [48#6, 48#6].length / 4 ≤ (room 1 (held "ww==" "")).params.capQ :=
  ⟨allAccepted, by decide +kernel⟩

/-! #### The keyed commands -/

/-- The flag of K; the empty key; `NARG` one above `CAP_Q`; `NARG` equal to it. -/
theorem witness_RepkRepeatsTheKey :
    AllAccepted ∧
    (small "" "KE").cfgok = true ∧ ({ small "" "K" with kperr := true } : State).kperr = true ∧
    (small "" "").kperr = false ∧ (small "" "").k = [] ∧ (small "" "KE").k ≠ [] ∧
    (small "" "KE").params.capQ < ({ small "" "KE" with narg := 5#32 } : State).narg.toNat ∧
    ({ small "" "KE" with narg := 4#32 } : State).narg.toNat ≤ (small "" "KE").params.capQ :=
  ⟨allAccepted, by decide +kernel⟩

/-- V-ADDS-14; V-ADDS-11; then V-ADDS-3 with room for 1 and for 2 cells. -/
theorem witness_AddsAddsTheKeyIndices :
    AllAccepted ∧
    ({ held "Q" "S" with kperr := true } : State).kperr = true ∧
    (held "Q" "").mperr = false ∧ (held "Q" "").kperr = false ∧ (held "Q" "").k = [] ∧
    FirstBad (held "Q" "S0V*").k (· ∈ (held "" "").alpha) 3 0x2A#8 ∧
    (held "Q*Q" "S0VZ").k ≠ [] ∧ (∀ d ∈ (held "Q*Q" "S0VZ").k, d ∈ (held "" "").alpha) ∧
    FirstBad (held "Q*Q" "S0VZ").m (· ∈ (held "" "").alpha) 1 0x2A#8 ∧
    Indices (held "" "").alpha (held "AB" "/").m [0#6, 1#6] ∧
    Indices (held "" "").alpha (held "AB" "/").k [63#6] ∧
    (room 1 (held "AB" "/")).params.capQ < (held "AB" "/").m.length ∧
    (held "AB" "/").m.length ≤ (room 2 (held "AB" "/")).params.capQ ∧
    [0#6, 1#6][1]? = some 1#6 ∧ [63#6][1 % (held "AB" "/").k.length]? = some 63#6 :=
  ⟨allAccepted, by decide +kernel⟩

/-- The same for `SUBS`: V-SUBS-8 for the cell of M, then V-SUBS-4. -/
theorem witness_SubsSubtractsTheKeyIndices :
    AllAccepted ∧
    ({ held "Q" "S" with mperr := true } : State).mperr = true ∧
    (held "A" "").mperr = false ∧ (held "A" "").kperr = false ∧ (held "A" "").k = [] ∧
    FirstBad (held "" "S*").k (· ∈ (held "" "").alpha) 1 0x2A#8 ∧
    (∀ d ∈ (held "ir=S" "S0VZ").k, d ∈ (held "" "").alpha) ∧
    FirstBad (held "ir=S" "S0VZ").m (· ∈ (held "" "").alpha) 2 0x3D#8 ∧
    Indices (held "" "").alpha (held "DK" "K").m [3#6, 10#6] ∧
    Indices (held "" "").alpha (held "DK" "K").k [10#6] ∧ (held "DK" "K").k ≠ [] ∧
    (room 1 (held "DK" "K")).params.capQ < (held "DK" "K").m.length ∧
    (held "DK" "K").m.length ≤ (room 2 (held "DK" "K")).params.capQ ∧
    [3#6, 10#6][0]? = some 3#6 ∧ [10#6][0 % (held "DK" "K").k.length]? = some 10#6 :=
  ⟨allAccepted, by decide +kernel⟩

/-- The empty key; V-ENCADD-2 with room for 1 and for 2 cells, and the groups of its second cell. -/
theorem witness_EncaddAddsTheEncodedKey :
    AllAccepted ∧
    ({ held "A" "K" with kperr := true } : State).kperr = true ∧
    (held "" "").k = [] ∧ (held "A" "K").k ≠ [] ∧ (held "A" "K").mperr = false ∧
    (held "A" "K").kperr = false ∧
    (room 1 (held "A" "K")).params.capQ < symbolCount (held "A" "K").m.length ∧
    symbolCount (held "A" "K").m.length ≤ (room 2 (held "A" "K")).params.capQ ∧
    GroupOf (held "A" "K").m 1 16#6 ∧
    GroupOf (held "A" "K").k (1 % symbolCount (held "A" "K").k.length) 48#6 :=
  ⟨allAccepted, by decide +kernel⟩

/-- V-DECADD-13; then V-DECADD-2 with room for 0 and for 1 cell, and the groups of its first cell. -/
theorem witness_DecaddSubtractsTheEncodedKey :
    AllAccepted ∧
    ({ held "iA" "K" with mperr := true } : State).mperr = true ∧
    (held "iA" "").k = [] ∧ (held "ire=" "KEY").k ≠ [] ∧ (held "ire=" "KEY").mperr = false ∧
    (held "ire=" "KEY").kperr = false ∧
    FirstBad (held "ire=" "KEY").m (· ∈ (held "" "").alpha) 3 0x3D#8 ∧
    Indices (held "" "").alpha (held "iA" "K").m [34#6, 0#6] ∧
    (room 0 (held "iA" "K")).params.capQ < 3 * (held "iA" "K").m.length / 4 ∧
    3 * (held "iA" "K").m.length / 4 ≤ (room 1 (held "iA" "K")).params.capQ ∧
    [34#6, 0#6][0]? = some 34#6 ∧
    GroupOf (held "iA" "K").k (0 % symbolCount (held "iA" "K").k.length) 18#6 ∧
    [16#6, 16#6][0]? = some 16#6 :=
  ⟨allAccepted, by decide +kernel⟩

/-! #### The laws of the functions -/

theorem witness_DecodeInvertsEncode : AlphabetOk defaultSyms 0x3D#8 := default_alphabetOk

/-- Texts of 3, 1 and 2 characters; sequences that decode. -/
theorem witness_CodecLengths :
    AlphabetOk defaultSyms 0x3D#8 ∧
    (str "ABC").length % 3 = 0 ∧ (str "A").length % 3 = 1 ∧
    (str "AB").length % 3 = 2 ∧
    (encodedToBits defaultSyms 0x3D#8 (str "Q=")).toOption =
      some [false, true, false, false, false, false] ∧
    (decodeText defaultSyms 0x3D#8 (str "QQ")).toOption = some (str "A") :=
  ⟨default_alphabetOk, by decide +kernel⟩

theorem witness_EncodingLanes :
    AlphabetOk defaultSyms 0x3D#8 ∧
    (str "Man")[3 * 0]? = some 0x4D#8 ∧ (str "Man")[3 * 0 + 1]? = some 0x61#8 ∧
    (str "Man")[3 * 0 + 2]? = some 0x6E#8 ∧ (str "ManM").length = 3 * 1 + 1 ∧
    (str "ManM")[3 * 1]? = some 0x4D#8 ∧ (str "Ma").length = 3 * 0 + 2 :=
  ⟨default_alphabetOk, by decide +kernel⟩

theorem witness_DecodingLanes :
    AlphabetOk defaultSyms 0x3D#8 ∧
    TrailingMarkers 0x3D#8 (str "TWFu") (str "TWFu") 0 ∧
    Indices defaultSyms (str "TWFu") [19#6, 22#6, 5#6, 46#6] ∧
    TrailingMarkers 0x3D#8 (str "QR==") (str "QR") 2 ∧
    Indices defaultSyms (str "QR") [16#6, 17#6] :=
  ⟨default_alphabetOk, by decide +kernel⟩

theorem witness_RotationIsItsOwnInverse :
    AlphabetOk defaultSyms 0x3D#8 ∧
    (rot defaultSyms 0x3D#8 (str "g=")).toOption = some (str "A=") ∧
    (str "g=")[0]? = some 0x67#8 ∧ 0x67#8 ∈ defaultSyms :=
  ⟨default_alphabetOk, by decide +kernel⟩

theorem witness_RotationCommutesWithPadding :
    AlphabetOk defaultSyms 0x3D#8 ∧
    (rot defaultSyms 0x3D#8 (str "w=w=")).toOption = some (str "Q=Q=") :=
  ⟨default_alphabetOk, by decide +kernel⟩

theorem witness_RotationRoundTripOnTheMachine :
    AllAccepted ∧
    (held "AB" "").mperr = false ∧
    paddedCount (held "AB" "").m.length ≤ (room 4 (held "AB" "")).params.capQ ∧
    paddedCount (held "AB" "").m.length ≤ (held "AB" "").params.capM :=
  ⟨allAccepted, by decide +kernel⟩

theorem witness_AddAndSubtractAreInverse :
    AlphabetOk defaultSyms 0x3D#8 ∧
    (addsyms defaultSyms (str "AB") (str "//")).toOption = some (str "/A") ∧
    (subsyms defaultSyms (str "DK") (str "K")).toOption = some (str "5A") :=
  ⟨default_alphabetOk, by decide +kernel⟩

theorem witness_AdditiveIdentityAndLengths :
    AlphabetOk defaultSyms 0x3D#8 ∧
    str "AA" ≠ [] ∧ (∀ c ∈ str "Q3J5", c ∈ defaultSyms) ∧
    (∀ c ∈ str "AA", defaultSyms[0]? = some c) ∧
    (encryptAdditive defaultSyms 0x3D#8 (str "A") (str "K")).toOption = some (str "iA") ∧
    (decryptAdditive defaultSyms 0x3D#8 (str "i") (str "KEY")).toOption = some [] :=
  ⟨default_alphabetOk, by decide +kernel⟩

theorem witness_AdditiveRoundTripOnTheMachine :
    AllAccepted ∧
    (held "AB" "KEY").mperr = false ∧ (held "AB" "KEY").kperr = false ∧ (held "AB" "KEY").k ≠ [] ∧
    symbolCount (held "AB" "KEY").m.length ≤ (room 3 (held "AB" "KEY")).params.capQ ∧
    symbolCount (held "AB" "KEY").m.length ≤ (held "AB" "KEY").params.capM :=
  ⟨allAccepted, by decide +kernel⟩

theorem witness_StagesEqualTheComposite :
    AllAccepted ∧
    (held "A" "").mperr = false ∧ 8 * (held "A" "").m.length ≤ (room 8 (held "A" "")).params.capQ ∧
    8 * (held "A" "").m.length ≤ (held "A" "").params.capM ∧
    paddedCount (held "A" "").m.length ≤ (room 8 (held "A" "")).params.capQ :=
  ⟨allAccepted, by decide +kernel⟩

theorem witness_RepaddedAdditiveCiphertext :
    AllAccepted ∧
    (held "A" "K").mperr = false ∧ (held "A" "K").kperr = false ∧ (held "A" "K").k ≠ [] ∧
    paddedCount (held "A" "K").m.length ≤ (room 4 (held "A" "K")).params.capQ ∧
    paddedCount (held "A" "K").m.length ≤ (held "A" "K").params.capM ∧
    (held "A" "K").m.length % 3 ≠ 0 :=
  ⟨allAccepted, by decide +kernel⟩

end Sys2Proof.Tests
end

