-- ==== Sys2Proof/Proofs/State.lean ====
section
/-! The state family (spec/10_state.md): pushes into M and K, and what a set push flag does. -/

namespace Sys2Proof.Proofs

open Sys2Proof Sys2Proof.Machine Sys2Proof.Claims

/-! ### The words of the claims are the model's operations -/

theorem accept_eq_taken (s : State) (rest : List Event) (a : Option Word) :
    s.accept rest a = taken s rest a := rfl

theorem fail_operand_eq_failedWith (s : State) :
    s.fail .operand 0 false = failedWith s 7#4 0 false := rfl

/-! ### Pushes (10_state.md R31) -/

/-- A word with the value of a cell carries that cell in its low byte. -/
theorem setWidth_eq_of_toNat_eq {v : Word} {c : Byte} (h : v.toNat = c.toNat) :
    v.setWidth 8 = c := by
  bv_omega

theorem pushM_append {s : State} {v : Word} {c : Byte} (hcfg : s.cfgok = true)
    (hv : v.toNat = c.toNat) (hroom : s.m.length < s.params.capM) :
    pushM v s = { s with m := s.m ++ [c] } := by
  have hbyte : v.toNat ≤ 255 := hv ▸ Nat.le_of_lt_succ c.isLt
  rcases pushM_cases v s with ⟨hoff, -⟩ | ⟨-, -, -, hpush⟩ | ⟨-, hbad, -⟩
  · simp [hcfg] at hoff
  · rw [hpush, setWidth_eq_of_toNat_eq hv]
  · exact absurd ⟨hbyte, hroom⟩ hbad

theorem pushM_refused {s : State} {v : Word} (hcfg : s.cfgok = true)
    (hbad : 255 < v.toNat ∨ s.params.capM ≤ s.m.length) :
    pushM v s = { s with mperr := true } := by
  rcases pushM_cases v s with ⟨hoff, -⟩ | ⟨-, hbyte, hroom, -⟩ | ⟨-, -, hpush⟩
  · simp [hcfg] at hoff
  · omega
  · exact hpush

theorem pushK_append {s : State} {v : Word} {c : Byte} (hcfg : s.cfgok = true)
    (hv : v.toNat = c.toNat) (hroom : s.k.length < s.params.capK) :
    pushK v s = { s with k := s.k ++ [c] } := by
  have hbyte : v.toNat ≤ 255 := hv ▸ Nat.le_of_lt_succ c.isLt
  rcases pushK_cases v s with ⟨hoff, -⟩ | ⟨-, -, -, hpush⟩ | ⟨-, hbad, -⟩
  · simp [hcfg] at hoff
  · rw [hpush, setWidth_eq_of_toNat_eq hv]
  · exact absurd ⟨hbyte, hroom⟩ hbad

theorem pushK_refused {s : State} {v : Word} (hcfg : s.cfgok = true)
    (hbad : 255 < v.toNat ∨ s.params.capK ≤ s.k.length) :
    pushK v s = { s with kperr := true } := by
  rcases pushK_cases v s with ⟨hoff, -⟩ | ⟨-, hbyte, hroom, -⟩ | ⟨-, -, hpush⟩
  · simp [hcfg] at hoff
  · omega
  · exact hpush

/-- A step whose event is a register write performs that write on the state without the event. -/
theorem step_write {s : State} {r : Fin 16} {v : Word} {rest : List Event}
    (h : s.inbox = .write r v :: rest) : step s = regWrite r v (taken s rest none) := by
  simp only [step, serve, h, accept_eq_taken]

theorem step_write_mpush {s : State} {v : Word} {rest : List Event}
    (h : s.inbox = .write 7 v :: rest) : step s = .next (pushM v (taken s rest none)) :=
  step_write h

theorem step_write_kpush {s : State} {v : Word} {rest : List Event}
    (h : s.inbox = .write 8 v :: rest) : step s = .next (pushK v (taken s rest none)) :=
  step_write h

theorem regRead_mpush (s : State) : regRead s 7 = 0#32 := by
  cases hc : s.cfgok <;> simp [regRead, hc, regStatus]

theorem regRead_kpush (s : State) : regRead s 8 = 0#32 := by
  cases hc : s.cfgok <;> simp [regRead, hc, regStatus]

/-! ### The buffers a data command reads (30_encoding.md R73) -/

/-- The "reads" column of R73 for a data command: every one but `REPK` reads M, the keyed ones
read K. -/
def readsOf (i : Instr) : Reads := ⟨decide (i ≠ .repk), decide (i ∈ keyedCommands)⟩

/-- Every data command executes by the four steps of R78, with its row of the "reads" column. -/
theorem exec_eq_dataCommand {i : Instr} (hi : i ∈ dataCommands) (s : State) :
    ∃ r, exec i s = .next (dataCommand (readsOf i) r s) := by
  fin_cases hi <;> exact ⟨_, rfl⟩

theorem operandFlagged_of_mperr {i : Instr} {s : State} (hflag : s.mperr = true)
    (hi : i ≠ .repk) : operandFlagged (readsOf i) s = true := by
  simp [operandFlagged, readsOf, hflag, hi]

theorem operandFlagged_of_kperr {i : Instr} {s : State} (hflag : s.kperr = true)
    (hi : i ∈ keyedCommands) : operandFlagged (readsOf i) s = true := by
  simp [operandFlagged, readsOf, hflag, hi]

theorem keyedCommands_subset_dataCommands : keyedCommands ⊆ dataCommands := by decide

/-- A data command that reads a flagged buffer fails with `OPERAND` (R78 step 1). -/
theorem exec_of_operandFlagged {i : Instr} {s : State} (hcfg : s.cfgok = true)
    (hi : i ∈ dataCommands) (hflag : operandFlagged (readsOf i) s = true) :
    exec i s = .next (failedWith s 7#4 0 false) := by
  obtain ⟨r, hexec⟩ := exec_eq_dataCommand hi s
  rw [hexec, dataCommand_flagged hcfg hflag, fail_operand_eq_failedWith]

/-! ### The obligation -/

/-- Settles O6: the two ports by the push lemmas, the flags by step 1 of R78. -/
theorem pushesAppendOrAreRefused : Obligations.PushesAppendOrAreRefused := by
  unfold Obligations.PushesAppendOrAreRefused
  refine ⟨fun s v rest hcfg => ⟨fun hin => ?mpush, fun hin => ?kpush⟩,
    fun s => ⟨regRead_mpush s, regRead_kpush s⟩,
    fun s i hcfg => ⟨fun hflag hi hrepk => ?mflag, fun hflag hi => ?kflag⟩⟩
  case mpush =>
    rw [step_write_mpush hin]
    exact ⟨fun c hv hroom => congrArg _ (pushM_append (s := taken s rest none) hcfg hv hroom),
      fun hbad => congrArg _ (pushM_refused (s := taken s rest none) hcfg hbad)⟩
  case kpush =>
    rw [step_write_kpush hin]
    exact ⟨fun c hv hroom => congrArg _ (pushK_append (s := taken s rest none) hcfg hv hroom),
      fun hbad => congrArg _ (pushK_refused (s := taken s rest none) hcfg hbad)⟩
  case mflag =>
    exact exec_of_operandFlagged hcfg hi (operandFlagged_of_mperr hflag hrepk)
  case kflag =>
    exact exec_of_operandFlagged hcfg (keyedCommands_subset_dataCommands hi)
      (operandFlagged_of_kperr hflag hi)

end Sys2Proof.Proofs
end

/-! The memory family (spec/20_memory.md): what `RegRead` returns for each register. -/

namespace Sys2Proof.Proofs

open Sys2Proof Sys2Proof.Machine Sys2Proof.Claims

/-- A read is answered from the state before it, and only the host's side of the port moves. -/
theorem step_read {s : State} {r : Fin 16} {rest : List Event} (h : s.inbox = .read r :: rest) :
    step s = .next (taken s rest (some (regRead s r))) := by
  simp only [step, serve, h, accept_eq_taken]

/-! ### The fields of `STATUS` (10_state.md R25) -/

section Status

variable (cfgok mperr kperr errk : Bool) (err : BitVec 4)

/-- The bits of the word from bit 0 up; `ERR` ends at bit 7 and reads false above. -/
theorem statusWord_getLsbD (i : Nat) :
    (statusWord cfgok mperr kperr errk err).getLsbD i =
      match i with
      | 0 => cfgok
      | 1 => mperr
      | 2 => kperr
      | 3 => errk
      | j + 4 => err.getLsbD j := by
  change BitVec.getLsbD (w := 24 + 4 + 1 + 1 + 1 + 1) _ i = _
  simp only [statusWord, BitVec.getLsbD_append]
  rcases i with _ | _ | _ | _ | j <;> simp
  exact BitVec.lt_of_getLsbD

theorem statusWord_extractLsb'_err :
    (statusWord cfgok mperr kperr errk err).extractLsb' 4 4 = err := by
  ext i hi
  simp [statusWord_getLsbD, hi, Nat.add_comm 4 i]

theorem statusWord_extractLsb'_reserved :
    (statusWord cfgok mperr kperr errk err).extractLsb' 8 24 = 0#24 := by
  ext i hi
  simp [statusWord_getLsbD, Nat.add_comm 8 i]

end Status

/-! ### `QDATA` (10_state.md R32) -/

theorem qdataView_of_length_le {s : State} (h : s.q.length ≤ s.qptr.toNat) :
    qdataView s = 0#32 := by
  simp [qdataView, List.getElem?_eq_none h]

theorem qdataView_of_getElem? {s : State} {c : Byte} (h : s.q[s.qptr.toNat]? = some c) :
    qdataView s = c.setWidth 32 := by
  simp [qdataView, h]

/-! ### `RegRead` with a configuration (20_memory.md R51) -/

section Configured

variable {s : State} (hcfg : s.cfgok = true)
include hcfg

theorem regRead_status : regRead s 1 = statusWord true s.mperr s.kperr s.errk s.err := by
  simp [regRead, hcfg]

theorem regRead_erridx : regRead s 2 = s.erridx := by simp [regRead, hcfg]

theorem regRead_narg : regRead s 3 = s.narg := by simp [regRead, hcfg]

theorem regRead_mlen : regRead s 4 = BitVec.ofNat 32 s.m.length := by simp [regRead, hcfg]

theorem regRead_klen : regRead s 5 = BitVec.ofNat 32 s.k.length := by simp [regRead, hcfg]

theorem regRead_qlen : regRead s 6 = BitVec.ofNat 32 s.q.length := by simp [regRead, hcfg]

theorem regRead_qptr : regRead s 9 = s.qptr := by simp [regRead, hcfg]

theorem regRead_qdata : regRead s 10 = qdataView s := by simp [regRead, hcfg]

end Configured

/-! ### Registers that read 0, and `RegRead` in the FAILED state -/

theorem regRead_failed_status {s : State} (hcfg : s.cfgok = false) :
    regRead s 1 = 0x00000010#32 := by
  simp [regRead, hcfg, regStatus, failedStatus]

theorem regRead_failed_of_ne {s : State} {r : Fin 16} (hcfg : s.cfgok = false) (hr : r ≠ 1) :
    regRead s r = 0#32 := by
  simp [regRead, hcfg, regStatus, hr]

theorem regRead_cmd (s : State) : regRead s 0 = 0#32 := by
  cases hcfg : s.cfgok <;> simp [regRead, hcfg, regStatus]

theorem regRead_reserved (s : State) {r : Fin 16} (hr : 11 ≤ r.val) : regRead s r = 0#32 := by
  fin_cases r <;> simp [regRead, regStatus] at hr ⊢

/-- Settles O5: a step answers a read by `regRead`, whose value each register's lemma gives. -/
theorem registerReadsAnswerTheViews : Obligations.RegisterReadsAnswerTheViews := by
  intro s r rest hread
  refine ⟨regRead s r, step_read hread, fun hcfg => ⟨?zero, ?status, ?erridx, ?narg, ?mlen, ?klen,
    ?qlen, ?qptr, ?qdataBeyond, ?qdataCell⟩, fun hcfg => ⟨?failedStatus, regRead_failed_of_ne hcfg⟩⟩
  case zero =>
    rintro (rfl | rfl | rfl | hr)
    · exact regRead_cmd s
    · exact regRead_mpush s
    · exact regRead_kpush s
    · exact regRead_reserved s hr
  case status =>
    rintro rfl
    rw [regRead_status hcfg]
    exact ⟨statusWord_getLsbD .., statusWord_getLsbD .., statusWord_getLsbD ..,
      statusWord_getLsbD .., statusWord_extractLsb'_err .., statusWord_extractLsb'_reserved ..⟩
  case erridx => rintro rfl; exact regRead_erridx hcfg
  case narg => rintro rfl; exact regRead_narg hcfg
  case mlen => rintro rfl; exact regRead_mlen hcfg
  case klen => rintro rfl; exact regRead_klen hcfg
  case qlen => rintro rfl; exact regRead_qlen hcfg
  case qptr => rintro rfl; exact regRead_qptr hcfg
  case qdataBeyond =>
    rintro rfl hbeyond
    rw [regRead_qdata hcfg, qdataView_of_length_le hbeyond]
  case qdataCell =>
    rintro rfl c hc
    rw [regRead_qdata hcfg, qdataView_of_getElem? hc]
    exact BitVec.toNat_setWidth_of_le (by decide)
  case failedStatus => rintro rfl; exact regRead_failed_status hcfg

end Sys2Proof.Proofs

/-! The encoding family (spec/30_encoding.md): the words the decoder accepts, and what a write of an
illegal word to `CMD` does. -/

namespace Sys2Proof.Proofs

open Sys2Proof Sys2Proof.Machine Sys2Proof.Claims

/-! ### The words the decoder accepts (30_encoding.md R70, R75) -/

theorem opcodeOf_eq_some_mem {op : BitVec 8} {i : Instr} (h : opcodeOf op = some i) :
    op ∈ legalOpcodes := by
  rw [← List.contains_iff_mem, ← opcodeOf_isSome_iff, h, Option.isSome_some]

/-- A word that decodes has a zero field and one of the 21 opcodes. -/
theorem decode_ok_fields {w : Word} {i : Instr} (h : decode w = .ok i) :
    w.extractLsb' 8 24 = 0#24 ∧ w.extractLsb' 0 8 ∈ legalOpcodes := by
  rcases decode_cases w with ⟨j, -, hzero, hop⟩ | ⟨herr, -, -⟩ | ⟨herr, -⟩
  · exact ⟨hzero, opcodeOf_eq_some_mem hop⟩
  · rw [h] at herr; cases herr
  · rw [h] at herr; cases herr

/-! ### Writes to `CMD` -/

theorem step_write_cmd {s : State} {w : Word} {rest : List Event}
    (h : s.inbox = .write 0 w :: rest) : step s = writeCmd w (taken s rest none) :=
  step_write h

theorem illegalCommand_eq_reported {s : State} (hcfg : s.cfgok = true) :
    illegalCommand s = reported s 6#4 :=
  onConfigured_of_true hcfg

theorem writeCmd_of_illegal {w : Word} {s : State} (hcfg : s.cfgok = true)
    (hbad : w.extractLsb' 8 24 ≠ 0#24 ∨ w.extractLsb' 0 8 ∉ legalOpcodes) :
    writeCmd w s = .next (reported s 6#4) := by
  rcases writeCmd_cases w s with ⟨i, hok, -⟩ | ⟨_, -, hwrite⟩
  · obtain ⟨hzero, hop⟩ := decode_ok_fields hok
    exact absurd hbad (not_or.mpr ⟨not_not.mpr hzero, not_not.mpr hop⟩)
  · rw [hwrite, illegalCommand_eq_reported hcfg]

/-- Settles O3: the step is the write to `CMD`, and an illegal word does not decode. -/
theorem illegalWordReportsIllcmdOnly : Obligations.IllegalWordReportsIllcmdOnly := by
  intro s w rest hcfg hinbox hbad
  have hcfg' : (taken s rest none).cfgok = true := hcfg
  rw [step_write_cmd hinbox, writeCmd_of_illegal hcfg' hbad]

end Sys2Proof.Proofs

/-! The Bit Codec family (spec/40_bit_codec.md section 2): what T2B, B2T, B2E, E2B, STRIP, PAD4, ENC
and DEC put into Q, bit by bit, and which error each one reports. -/

namespace Sys2Proof.Proofs

open Sys2Proof Sys2Proof.Machine Sys2Proof.Claims

/-! ### The outcomes of a data command, in the words of the claims (30_encoding.md R78) -/

section Outcomes

variable {i : Instr} {s : State} {rd : Reads} {r : Except FnError Cells}

theorem exec_of_mperr (hi : i ∈ dataCommands) (hrepk : i ≠ .repk) (hcfg : s.cfgok = true)
    (hflag : s.mperr = true) : exec i s = .next (failedWith s 7#4 0 false) :=
  exec_of_operandFlagged hcfg hi (operandFlagged_of_mperr hflag hrepk)

theorem not_operandFlagged_of_mperr (hflag : s.mperr = false) :
    operandFlagged readsMOnly s = false :=
  (operandFlagged_readsMOnly s).trans hflag

variable (hexec : exec i s = .next (dataCommand rd r s)) (hcfg : s.cfgok = true)
  (hflag : operandFlagged rd s = false)

include hexec hcfg hflag

theorem exec_of_badbit {j : Nat} (hr : r = .error (.badbit j)) :
    exec i s = .next (failedWith s 4#4 j false) := by
  rw [hexec, hr, dataCommand_raised hcfg hflag]; rfl

theorem exec_of_invsym {j : Nat} {inK : Bool} (hr : r = .error (.invsym j inK)) :
    exec i s = .next (failedWith s 2#4 j inK) := by
  rw [hexec, hr, dataCommand_raised hcfg hflag]; rfl

theorem exec_of_tooLong {Q : Cells} (hr : r = .ok Q) (hlen : s.params.capQ < Q.length) :
    exec i s = .next (failedWith s 5#4 0 false) := by
  rw [hexec, hr, dataCommand_tooLong hcfg hflag hlen]; rfl

theorem exec_of_fits {Q : Cells} (hr : r = .ok Q) (hlen : Q.length ≤ s.params.capQ) :
    exec i s = .next (finished s Q) := by
  rw [hexec, hr, dataCommand_commits hcfg hflag hlen]; rfl

end Outcomes

/-! ### The first cell that fails a test (00_scope.md R11) -/

/-- Before the first bad cell every cell, named by its index, is good. -/
theorem good_of_lt_firstBad {S : Cells} {good : Byte → Prop} {i : Nat} {c : Byte}
    (h : FirstBad S good i c) {j : Nat} {d : Byte} (hj : j < i) (hd : S[j]? = some d) : good d :=
  h.2.2 d (List.mem_of_getElem? ((List.getElem?_take_of_lt hj).trans hd))

theorem fromCells_of_firstBad {S : Cells} {i : Nat} {c : Byte} (h : FirstBad S BitCell i c) :
    fromCells S = .error (.badbit i) := by
  obtain ⟨hc0, hc1⟩ := not_or.mp h.2.1
  exact fromCells_eq_error_iff.mpr ⟨i, c, h.1, hc0, hc1, rfl,
    fun _ _ hj hd => good_of_lt_firstBad h hj hd⟩

theorem scan_lookup_of_firstBad {A S : Cells} {i : Nat} {c : Byte} {inK : Bool}
    (h : FirstBad S (· ∈ A) i c) : scan (lookup A inK) 0 S = .error (.invsym i inK) :=
  scan_lookup_error_iff.mpr ⟨i, c, h.1, h.2.1, rfl,
    fun _ _ hj hd => good_of_lt_firstBad h hj hd⟩

/-! ### Bit streams, bit by bit (20_memory.md R56) -/

/-- Bit `p` of the stream of a text is a bit of the character it falls in. -/
theorem textToBits_getElem? (T : Cells) (p : Nat) :
    (textToBits T)[p]? = T[p / 8]?.map fun c => c.getLsbD (7 - p % 8) := by
  have hp : p % 8 < 8 := Nat.mod_lt _ (by decide)
  have hcell := flatMap_getElem? bits8 bits8_length T (p / 8) (p % 8) hp
  rw [Nat.div_add_mod] at hcell
  rw [textToBits, hcell]
  cases T[p / 8]? with
  | none => rfl
  | some c => exact bits8_getElem? c hp

/-- Bit `p` of the stream of a sequence of indices is a bit of the index it falls in. -/
theorem flatMap_bits6_getElem? (gs : List Idx) (p : Nat) :
    (gs.flatMap bits6)[p]? = gs[p / 6]?.map fun g => g.getLsbD (5 - p % 6) := by
  have hp : p % 6 < 6 := Nat.mod_lt _ (by decide)
  have hgroup := flatMap_getElem? bits6 bits6_length gs (p / 6) (p % 6) hp
  rw [Nat.div_add_mod] at hgroup
  rw [hgroup]
  cases gs[p / 6]? with
  | none => rfl
  | some g => exact bits6_getElem? g hp

theorem textBit_eq (T : Cells) (p : Nat) : textBit T p = (textToBits T)[p]?.getD false := by
  rw [textToBits_getElem?, textBit]
  cases T[p / 8]? <;> rfl

theorem groupBit_eq (gs : List Idx) (p : Nat) :
    groupBit gs p = (gs.flatMap bits6)[p]?.getD false := by
  rw [flatMap_bits6_getElem?, groupBit]
  cases gs[p / 6]? <;> rfl

/-- The bits of the groups of a bit string are its own bits, then zeros. -/
theorem groupBit_groupsOf (B : BitString) {p : Nat} (hp : p < 6 * (groupsOf B).length) :
    groupBit (groupsOf B) p = B[p]?.getD false := by
  rw [groupsOf_length] at hp
  obtain ⟨g, hg, hbit⟩ := groupsOf_bit B (p / 6) (p % 6) (by omega) (Nat.mod_lt _ (by decide))
  rw [Nat.div_add_mod] at hbit
  rw [groupBit, hg, ← hbit]

/-- The characters made of a bit string hold its bits, as far as they go. -/
theorem textBit_bitsToText (B : BitString) {p : Nat} (hp : p < 8 * (bitsToText B).length) :
    textBit (bitsToText B) p = B[p]?.getD false := by
  rw [bitsToText_length] at hp
  have ht : p % 8 < 8 := Nat.mod_lt _ (by decide)
  have hlen : (slice B (8 * (p / 8)) (8 * (p / 8) + 8)).length = 8 := by
    rw [slice_length _ _ _ (by omega)]; omega
  have hval := testBit_bitsVal (slice B (8 * (p / 8)) (8 * (p / 8) + 8)) (p % 8) (by omega)
  rw [slice_getElem? _ _ _ _ ht, Nat.div_add_mod, hlen] at hval
  have hchar : (bitsToText B)[p / 8]? =
      some (BitVec.ofNat 8 (bitsVal (slice B (8 * (p / 8)) (8 * (p / 8) + 8)))) := by
    simp [bitsToText, show p / 8 < B.length / 8 by omega]
  have hbit : 7 - p % 8 < 8 := by omega
  simp only [textBit, hchar, hval, BitVec.getLsbD_ofNat, hbit, decide_true, Bool.true_and,
    Nat.add_one_sub_one, Option.getD_some]

/-! ### Bit cells (10_state.md R37) -/

theorem fromCells_of_bitCells {S : Cells} (h : ∀ c ∈ S, BitCell c) :
    ∃ B, fromCells S = .ok B ∧ S = toCells B := by
  cases hS : fromCells S with
  | ok B => exact ⟨B, rfl, fromCells_eq_ok_iff.mp hS⟩
  | error e =>
    obtain ⟨j, c, hj, hc0, hc1, -, -⟩ := fromCells_eq_error_iff.mp hS
    exact absurd (h c (List.mem_of_getElem? hj)) (not_or.mpr ⟨hc0, hc1⟩)

/-- A bit is set exactly when its cell is 0x31. -/
theorem bit_eq_decide_toCells (B : BitString) (p : Nat) :
    B[p]?.getD false = decide ((toCells B)[p]? = some 0x31#8) := by
  rw [toCells_getElem?]
  cases B[p]? with
  | none => rfl
  | some b => cases b <;> rfl

/-- A cell within the length of the bit string shows the bit at its place. -/
theorem toCells_getElem?_of_lt {B : BitString} {p : Nat} (hp : p < B.length) :
    (toCells B)[p]? = some (if B[p]?.getD false then 0x31#8 else 0x30#8) := by
  rw [toCells_getElem?, List.getElem?_eq_getElem hp]; rfl

/-! ### Symbols and markers (40_bit_codec.md R102 to R105) -/

/-- In the Alphabet of 64 symbols every rotated index has a symbol. -/
theorem symbolsAt_eq_map_sym {A : Cells} (hl : A.length = 64) (gs : List Idx) (d : Nat) :
    symbolsAt A gs d = gs.map fun g => sym A (g + BitVec.ofNat 6 d) := by
  have hsym : ∀ g : Idx, A[(g.toNat + d) % 64]? = some (sym A (g + BitVec.ofNat 6 d)) := by
    intro g
    rw [← sym_eq_getElem hl]
    simp
  simp only [symbolsAt, hsym, List.filterMap_eq_map']

theorem eq_map_sym_of_indices {A S : Cells} {gs : List Idx} (hl : A.length = 64)
    (h : Indices A S gs) : S = gs.map (sym A) := by
  have hsome : S.map some = (gs.map (sym A)).map some := by
    rw [← h, List.map_map]
    exact List.map_congr_left fun g _ => sym_eq_getElem hl g
  exact List.map_injective_iff.mpr (Option.some_injective _) hsome

theorem strip_of_trailingMarkers {P : Byte} {m S : Cells} {n : Nat}
    (h : TrailingMarkers P m S n) : strip P m = S := by
  rw [h.1, strip_append_replicate P S n h.2]

/-- A number of markers below 4 that fills up to a multiple of 4 is the number `pad4` appends. -/
theorem pad4_eq_append {S : Cells} {p : Nat} (P : Byte) (hp : p < 4)
    (hfill : (S.length + p) % 4 = 0) : pad4 P S = S ++ List.replicate p P := by
  rw [pad4, show (4 - S.length % 4) % 4 = p by omega]

/-- The encoding of a bit string is the symbols of its groups, then markers. -/
theorem bitsToEncoded_eq {A : Cells} (hl : A.length = 64) (P : Byte) (B : BitString) :
    bitsToEncoded A P B = symbolsAt A (groupsOf B) 0 ++
      List.replicate ((4 - (groupsOf B).length % 4) % 4) P := by
  simp [bitsToEncoded, pad4, bitsToSyms_eq, symbolsAt_eq_map_sym hl]

theorem bitsToEncoded_length (A : Cells) (P : Byte) (B : BitString) :
    (bitsToEncoded A P B).length = 4 * ((groupCount B.length + 3) / 4) := by
  rw [bitsToEncoded, pad4_length, bitsToSyms_length]; omega

theorem groupCount_eq_symbolCount (n : Nat) : groupCount (8 * n) = symbolCount n := by
  unfold groupCount symbolCount; omega

theorem encodeText_length (A : Cells) (P : Byte) (T : Cells) :
    (encodeText A P T).length = paddedCount T.length := by
  rw [encodeText, bitsToEncoded_length, textToBits_length, groupCount, paddedCount]; omega

/-- The groups of the bit stream of a text are its groups in the words of the claims. -/
theorem groupOf_of_groupsOf {T : Cells} {j : Nat} {g : Idx}
    (h : (groupsOf (textToBits T))[j]? = some g) : GroupOf T j g := by
  intro t ht
  have hj : j < groupCount (textToBits T).length :=
    groupsOf_length _ ▸ (List.getElem?_eq_some_iff.mp h).1
  obtain ⟨g', hg', hbit⟩ := groupsOf_bit (textToBits T) j t hj ht
  obtain rfl : g = g' := Option.some_inj.mp (h.symm.trans hg')
  rw [hbit, textBit_eq]

/-! ### Symbols back to bits (40_bit_codec.md R106, R108) -/

section Decoding

variable {A : Cells} {P : Byte} {m S : Cells} {n : Nat}

theorem encodedToBits_of_firstBad {i : Nat} {c : Byte} (hm : TrailingMarkers P m S n)
    (h : FirstBad S (· ∈ A) i c) : encodedToBits A P m = .error (.invsym i false) := by
  rw [encodedToBits, strip_of_trailingMarkers hm, scan_lookup_of_firstBad h]

theorem encodedToBits_of_indices {gs : List Idx} (hA : AlphabetOk A P)
    (hm : TrailingMarkers P m S n) (h : Indices A S gs) :
    encodedToBits A P m = .ok (gs.flatMap bits6) :=
  encodedToBits_of_strip hA ((strip_of_trailingMarkers hm).trans (eq_map_sym_of_indices hA.1 h))

theorem decodeText_of_firstBad {i : Nat} {c : Byte} (hm : TrailingMarkers P m S n)
    (h : FirstBad S (· ∈ A) i c) : decodeText A P m = .error (.invsym i false) := by
  rw [decodeText, encodedToBits_of_firstBad hm h]

theorem decodeText_of_indices {gs : List Idx} (hA : AlphabetOk A P)
    (hm : TrailingMarkers P m S n) (h : Indices A S gs) :
    decodeText A P m = .ok (bitsToText (gs.flatMap bits6)) := by
  rw [decodeText, encodedToBits_of_indices hA hm h]

end Decoding

theorem bitsToText_groups_length (gs : List Idx) :
    (bitsToText (gs.flatMap bits6)).length = 3 * gs.length / 4 := by
  rw [bitsToText_length, flatMap_length bits6 bits6_length]; omega

theorem textOfGroups_bitsToText (gs : List Idx) :
    TextOfGroups gs (bitsToText (gs.flatMap bits6)) :=
  ⟨bitsToText_groups_length gs, fun p hp => by rw [textBit_bitsToText _ hp, groupBit_eq]⟩

/-! ### The commands (40_bit_codec.md section 2) -/

section Commands

variable (s : State)

theorem exec_t2b :
    exec .t2b s = .next (dataCommand readsMOnly (.ok (toCells (textToBits s.m))) s) := rfl

theorem exec_b2t :
    exec .b2t s = .next (dataCommand readsMOnly ((fromCells s.m).map bitsToText) s) := rfl

theorem exec_b2e : exec .b2e s =
    .next (dataCommand readsMOnly ((fromCells s.m).map (bitsToEncoded s.alpha s.pad)) s) := rfl

theorem exec_e2b : exec .e2b s =
    .next (dataCommand readsMOnly ((encodedToBits s.alpha s.pad s.m).map toCells) s) := rfl

theorem exec_strip : exec .strip s = .next (dataCommand readsMOnly (.ok (strip s.pad s.m)) s) := rfl

theorem exec_pad4 : exec .pad4 s = .next (dataCommand readsMOnly (.ok (pad4 s.pad s.m)) s) := rfl

theorem exec_enc :
    exec .enc s = .next (dataCommand readsMOnly (.ok (encodeText s.alpha s.pad s.m)) s) := rfl

theorem exec_dec :
    exec .dec s = .next (dataCommand readsMOnly (decodeText s.alpha s.pad s.m) s) := rfl

end Commands

/-! ### The obligations -/

/-- Settles O28: the cells written are the bit cells of the text's own bit stream. -/
theorem t2bWritesTheBitsOfTheText : Obligations.T2bWritesTheBitsOfTheText := by
  refine ⟨rfl, fun s hcfg => ⟨exec_of_mperr (by decide) (by decide) hcfg,
    fun hm hlong => ?capacity, fun hm hfit => ⟨toCells (textToBits s.m), ?runs, ?length, ?bits⟩⟩⟩
  case capacity =>
    exact exec_of_tooLong (exec_t2b s) hcfg (not_operandFlagged_of_mperr hm) rfl
      (by simpa using hlong)
  case runs =>
    exact exec_of_fits (exec_t2b s) hcfg (not_operandFlagged_of_mperr hm) rfl
      (by simpa using hfit)
  case length => simp
  case bits =>
    intro p hp
    rw [textBit_eq]
    exact toCells_getElem?_of_lt (by simpa using hp)

/-- Settles O29: the scan finds the least bad cell; else the characters hold the bits of M. -/
theorem b2tReadsTheBitsAsText : Obligations.B2tReadsTheBitsAsText := by
  refine ⟨rfl, fun s hcfg => ⟨exec_of_mperr (by decide) (by decide) hcfg,
    fun i c hm hbad => ?badbit, fun hm hbits hlong => ?capacity, fun hm hbits hfit => ?result⟩⟩
  case badbit =>
    exact exec_of_badbit (exec_b2t s) hcfg (not_operandFlagged_of_mperr hm)
      (by rw [fromCells_of_firstBad hbad]; rfl)
  all_goals
    obtain ⟨B, hB, hcells⟩ := fromCells_of_bitCells hbits
    have hr : (fromCells s.m).map bitsToText = .ok (bitsToText B) := by rw [hB]; rfl
    have hlen : (bitsToText B).length = s.m.length / 8 := by rw [hcells]; simp
  case capacity =>
    exact exec_of_tooLong (exec_b2t s) hcfg (not_operandFlagged_of_mperr hm) hr (hlen ▸ hlong)
  case result =>
    refine ⟨bitsToText B, exec_of_fits (exec_b2t s) hcfg (not_operandFlagged_of_mperr hm) hr
      (hlen ▸ hfit), hlen, fun p hp => ?_⟩
    rw [textBit_bitsToText B hp, bit_eq_decide_toCells, ← hcells]

/-- Settles O30: as O29, with the groups of the bit string read from M in place of characters. -/
theorem b2eEncodesTheBits : Obligations.B2eEncodesTheBits := by
  refine ⟨rfl, fun s hcfg hA => ⟨exec_of_mperr (by decide) (by decide) hcfg,
    fun i c hm hbad => ?badbit, fun hm hbits hlong => ?capacity, fun hm hbits hfit => ?result⟩⟩
  case badbit =>
    exact exec_of_badbit (exec_b2e s) hcfg (not_operandFlagged_of_mperr hm)
      (by rw [fromCells_of_firstBad hbad]; rfl)
  all_goals
    obtain ⟨B, hB, hcells⟩ := fromCells_of_bitCells hbits
    have hr : (fromCells s.m).map (bitsToEncoded s.alpha s.pad) =
        .ok (bitsToEncoded s.alpha s.pad B) := by rw [hB]; rfl
    have hcount : groupCount B.length = (s.m.length + 5) / 6 := by rw [hcells]; simp [groupCount]
    have hlen := hcount ▸ bitsToEncoded_length s.alpha s.pad B
  case capacity =>
    exact exec_of_tooLong (exec_b2e s) hcfg (not_operandFlagged_of_mperr hm) hr (hlen ▸ hlong)
  case result =>
    have hrun := exec_of_fits (exec_b2e s) hcfg (not_operandFlagged_of_mperr hm) hr (hlen ▸ hfit)
    rw [bitsToEncoded_eq hA.1] at hrun
    refine ⟨groupsOf B, _, hrun, by rw [groupsOf_length, hcount], ?_, fun p hp => ?_⟩
    · rw [groupsOf_length, hcount]; omega
    · rw [groupBit_groupsOf B hp, bit_eq_decide_toCells, ← hcells]

/-- Settles O31: the scan of the stripped form finds the least cell that is no symbol; else the
cells written are the bit cells of the indices' bit stream. -/
theorem e2bWritesTheBitsOfTheSymbols : Obligations.E2bWritesTheBitsOfTheSymbols := by
  refine ⟨rfl, fun s hcfg hA => ⟨exec_of_mperr (by decide) (by decide) hcfg,
    fun S n i c hm hmark hbad => ?invsym, fun S n gs hm hmark hidx => ?symbols⟩⟩
  case invsym =>
    exact exec_of_invsym (exec_e2b s) hcfg (not_operandFlagged_of_mperr hm)
      (by rw [encodedToBits_of_firstBad hmark hbad]; rfl)
  case symbols =>
    have hr : (encodedToBits s.alpha s.pad s.m).map toCells = .ok (toCells (gs.flatMap bits6)) := by
      rw [encodedToBits_of_indices hA hmark hidx]; rfl
    have hbits : (gs.flatMap bits6).length = 6 * gs.length := flatMap_length bits6 bits6_length gs
    have hlen := (toCells_length (gs.flatMap bits6)).trans hbits
    have hflag := not_operandFlagged_of_mperr hm
    constructor
    · intro hlong
      exact exec_of_tooLong (exec_e2b s) hcfg hflag hr (hlen ▸ hlong)
    · intro hfit
      refine ⟨_, exec_of_fits (exec_e2b s) hcfg hflag hr (hlen ▸ hfit), hlen, fun p hp => ?_⟩
      rw [groupBit_eq]
      exact toCells_getElem?_of_lt (hbits ▸ hp)

/-- Settles O32: a message has one form with its trailing markers apart, which `strip` finds. -/
theorem stripDropsTheTrailingMarkers : Obligations.StripDropsTheTrailingMarkers := by
  refine ⟨rfl, fun s hcfg => ⟨exec_of_mperr (by decide) (by decide) hcfg,
    ⟨_, _, strip_spec s.pad s.m⟩, fun S n hm hmark => ?_⟩⟩
  have hr : Except.ok (strip s.pad s.m) = Except.ok (ε := FnError) S :=
    congrArg _ (strip_of_trailingMarkers hmark)
  exact ⟨exec_of_tooLong (exec_strip s) hcfg (not_operandFlagged_of_mperr hm) hr,
    exec_of_fits (exec_strip s) hcfg (not_operandFlagged_of_mperr hm) hr⟩

/-- Settles O33: the number of markers is determined by the length of the message. -/
theorem pad4FillsToAMultipleOfFour : Obligations.Pad4FillsToAMultipleOfFour := by
  refine ⟨rfl, fun s hcfg => ⟨exec_of_mperr (by decide) (by decide) hcfg,
    fun p hm hp hfill => ?_⟩⟩
  have hr : Except.ok (pad4 s.pad s.m) = Except.ok (ε := FnError) (s.m ++ List.replicate p s.pad) :=
    congrArg _ (pad4_eq_append s.pad hp hfill)
  have hlen : (s.m ++ List.replicate p s.pad).length = s.m.length + p := by simp
  rw [← hlen]
  exact ⟨exec_of_tooLong (exec_pad4 s) hcfg (not_operandFlagged_of_mperr hm) hr,
    exec_of_fits (exec_pad4 s) hcfg (not_operandFlagged_of_mperr hm) hr⟩

/-- Settles O34: the groups are those of the text's bit stream, the markers fill the last four. -/
theorem encEncodesTheText : Obligations.EncEncodesTheText := by
  refine ⟨rfl, fun s hcfg hA => ⟨exec_of_mperr (by decide) (by decide) hcfg,
    fun hm hlong => ?capacity, fun hm hfit => ?result⟩⟩
  all_goals have hlen := encodeText_length s.alpha s.pad s.m
  case capacity =>
    exact exec_of_tooLong (exec_enc s) hcfg (not_operandFlagged_of_mperr hm) rfl (hlen ▸ hlong)
  case result =>
    have hrun := exec_of_fits (exec_enc s) hcfg (not_operandFlagged_of_mperr hm) rfl (hlen ▸ hfit)
    rw [encodeText, bitsToEncoded_eq hA.1] at hrun
    have hcount : (groupsOf (textToBits s.m)).length = symbolCount s.m.length := by
      rw [groupsOf_length, textToBits_length, groupCount_eq_symbolCount]
    refine ⟨groupsOf (textToBits s.m), _, hrun, hcount, ?_, fun j g => groupOf_of_groupsOf⟩
    rw [hcount, symbolCount, paddedCount]
    omega

/-- Settles O35: as O31, with the bits of the indices regrouped into characters. -/
theorem decDecodesTheSymbols : Obligations.DecDecodesTheSymbols := by
  refine ⟨rfl, fun s hcfg hA => ⟨exec_of_mperr (by decide) (by decide) hcfg,
    fun S n i c hm hmark hbad => ?invsym, fun S n gs hm hmark hidx => ?symbols⟩⟩
  case invsym =>
    exact exec_of_invsym (exec_dec s) hcfg (not_operandFlagged_of_mperr hm)
      (decodeText_of_firstBad hmark hbad)
  case symbols =>
    have hr := decodeText_of_indices hA hmark hidx
    have hlen := bitsToText_groups_length gs
    have hflag := not_operandFlagged_of_mperr hm
    constructor
    · intro hlong
      exact exec_of_tooLong (exec_dec s) hcfg hflag hr (hlen ▸ hlong)
    · intro hfit
      exact ⟨_, exec_of_fits (exec_dec s) hcfg hflag hr (hlen ▸ hfit), textOfGroups_bitsToText gs⟩

end Sys2Proof.Proofs

/-! The Rotation Cipher family (spec/41_rotation.md section 2): what ROTS, ENCROT and DECROT put into
Q, and which error each one reports. -/

namespace Sys2Proof.Proofs

open Sys2Proof Sys2Proof.Machine Sys2Proof.Claims

/-! ### What `rot` answers, cell by cell (41_rotation.md R130) -/

section Rot

variable {A : Cells} {P : Byte} {E R : Cells}

theorem rot_of_firstBad {i : Nat} {c : Byte} (h : FirstBad E (fun c => c ∈ A ∨ c = P) i c) :
    rot A P E = .error (.invsym i false) := by
  obtain ⟨hsym, hpad⟩ := not_or.mp h.2.1
  exact rot_eq_error_iff.mpr ⟨i, c, h.1, hpad, hsym, rfl,
    fun _ _ hj hd => (good_of_lt_firstBad h hj hd).symm⟩

theorem rot_ok_of_symbols_markers (h : ∀ c ∈ E, c ∈ A ∨ c = P) : ∃ R, rot A P E = .ok R := by
  cases hE : rot A P E with
  | ok R => exact ⟨R, rfl⟩
  | error e =>
    obtain ⟨j, c, hj, hpad, hsym, -, -⟩ := rot_eq_error_iff.mp hE
    exact absurd (h c (List.mem_of_getElem? hj)) (not_or.mpr ⟨hsym, hpad⟩)

theorem rot_getElem? (hR : rot A P E = .ok R) {j : Nat} {c : Byte} (hc : E[j]? = some c) :
    ∃ d, R[j]? = some d ∧ rotCell A P (0 + j) c = .ok d :=
  ((scan_eq_ok_iff E 0 R).mp hR).2 j c hc

theorem rot_getElem?_pad (hR : rot A P E = .ok R) {j : Nat} (hc : E[j]? = some P) :
    R[j]? = some P := by
  obtain ⟨d, hd, hcell⟩ := rot_getElem? hR hc
  rw [rotCell_pad, Except.ok.injEq] at hcell
  rw [hd, hcell]

theorem rot_getElem?_sym (hA : AlphabetOk A P) (hR : rot A P E = .ok R) {j : Nat} {g : Idx}
    (hc : E[j]? = some (sym A g)) : R[j]? = some (sym A (g + 32#6)) := by
  obtain ⟨d, hd, hcell⟩ := rot_getElem? hR hc
  rw [rotCell_sym hA, Except.ok.injEq] at hcell
  rw [hd, hcell]

/-- A cell of a rotation is the marker where the operand has the marker, and a symbol elsewhere. -/
theorem rot_cell_cases (hl : A.length = 64) (hR : rot A P E = .ok R) {j : Nat} {d : Byte}
    (hd : R[j]? = some d) : (E[j]? = some P ∧ d = P) ∨ (E[j]? ≠ some P ∧ d ∈ A) := by
  have hj : j < E.length := rot_length hR ▸ (List.getElem?_eq_some_iff.mp hd).1
  have hc : E[j]? = some E[j] := List.getElem?_eq_getElem hj
  obtain ⟨d', hd', hcell⟩ := rot_getElem? hR hc
  obtain rfl : d = d' := Option.some_inj.mp (hd.symm.trans hd')
  rw [hc]
  rcases rotCell_eq_ok_iff.mp hcell with ⟨hpad, rfl⟩ | ⟨hpad, g, -, rfl⟩
  · exact .inl ⟨congrArg some hpad, rfl⟩
  · exact .inr ⟨fun h => hpad (Option.some_inj.mp h), sym_mem hl _⟩

theorem rot_append_markers (hR : rot A P E = .ok R) (n : Nat) :
    rot A P (E ++ List.replicate n P) = .ok (R ++ List.replicate n P) := by
  have hlen := rot_length hR
  refine (scan_eq_ok_iff _ 0 _).mpr ⟨by simp [hlen], fun j c hj => ?_⟩
  by_cases hlt : j < E.length
  · rw [List.getElem?_append_left hlt] at hj
    rw [List.getElem?_append_left (hlen ▸ hlt)]
    exact rot_getElem? hR hj
  · rw [List.getElem?_append_right (Nat.not_lt.mp hlt)] at hj
    rw [List.getElem?_append_right (hlen ▸ Nat.not_lt.mp hlt), hlen]
    obtain rfl : c = P := List.eq_of_mem_replicate (List.mem_of_getElem? hj)
    exact ⟨c, hj, rotCell_pad _⟩

/-- A rotation ends in a marker only if its operand does. -/
theorem rot_getLast?_ne_pad (hA : AlphabetOk A P) (hR : rot A P E = .ok R)
    (hlast : E.getLast? ≠ some P) : R.getLast? ≠ some P := by
  rw [List.getLast?_eq_getElem?] at hlast ⊢
  intro h
  rcases rot_cell_cases hA.1 hR h with ⟨hpad, -⟩ | ⟨-, hsym⟩
  · exact hlast (rot_length hR ▸ hpad)
  · exact hA.2.2 hsym

/-- The first marker of an operand of symbols and markers is the first cell of its rotation that is
no symbol. -/
theorem rot_firstBad_of_firstMarker (hA : AlphabetOk A P) (hR : rot A P E = .ok R) {i : Nat}
    (h : FirstBad E (· ≠ P) i P) : FirstBad R (· ∈ A) i P := by
  refine ⟨rot_getElem?_pad hR h.1, hA.2.2, fun d hd => ?_⟩
  obtain ⟨j, hj⟩ := List.mem_iff_getElem?.mp hd
  rw [List.getElem?_take, Option.ite_none_right_eq_some] at hj
  obtain ⟨hlt, hd⟩ := hj
  rcases rot_cell_cases hA.1 hR hd with ⟨hpad, -⟩ | ⟨-, hsym⟩
  · exact absurd rfl (good_of_lt_firstBad h hlt hpad)
  · exact hsym

end Rot

/-- The symbol 32 places on, modulo 64, from the symbol of index `g`. -/
theorem getElem?_add_32_mod_64 {A : Cells} (hl : A.length = 64) (g : Idx) :
    A[(g.toNat + 32) % 64]? = some (sym A (g + 32#6)) := by
  rw [← sym_eq_getElem hl, BitVec.toNat_add]
  rfl

/-! ### The encryption and the decryption (41_rotation.md R131, R132) -/

section Cipher

variable {A : Cells} {P : Byte} {m S : Cells} {n : Nat}

/-- The ciphertext is the rotated symbols of the text's groups, then markers. -/
theorem encryptRotation_eq_symbolsAt (hA : AlphabetOk A P) (T : Cells) :
    encryptRotation A P T = .ok (symbolsAt A (groupsOf (textToBits T)) 32 ++
      List.replicate ((4 - (groupsOf (textToBits T)).length % 4) % 4) P) := by
  simp [encryptRotation_eq hA, pad4, symbolsAt_eq_map_sym hA.1]

theorem encryptRotation_length {T Q : Cells} (h : encryptRotation A P T = .ok Q) :
    Q.length = paddedCount T.length :=
  (rot_length h).trans (encodeText_length A P T)

theorem decryptRotation_of_rot_error {e : FnError} (h : rot A P m = .error e) :
    decryptRotation A P m = .error e := by
  rw [decryptRotation, h]

theorem decryptRotation_of_rot_ok {E : Cells} (h : rot A P m = .ok E) :
    decryptRotation A P m = decodeText A P E := by
  rw [decryptRotation, h]

/-- A marker below the trailing run survives the rotation and stops the decoding. -/
theorem decryptRotation_of_firstMarker {i : Nat} (hA : AlphabetOk A P)
    (hcells : ∀ c ∈ m, c ∈ A ∨ c = P) (hm : TrailingMarkers P m S n)
    (h : FirstBad S (· ≠ P) i P) : decryptRotation A P m = .error (.invsym i false) := by
  obtain ⟨rfl, hlast⟩ := hm
  obtain ⟨R, hR⟩ := rot_ok_of_symbols_markers fun c hc => hcells c (List.mem_append_left _ hc)
  rw [decryptRotation_of_rot_ok (rot_append_markers hR n)]
  exact decodeText_of_firstBad ⟨rfl, rot_getLast?_ne_pad hA hR hlast⟩
    (rot_firstBad_of_firstMarker hA hR h)

theorem decryptRotation_of_indices {gs : List Idx} (hA : AlphabetOk A P)
    (hm : TrailingMarkers P m S n) (h : Indices A S gs) :
    decryptRotation A P m = .ok (bitsToText ((gs.map (· + 32#6)).flatMap bits6)) := by
  have hrot : rot A P m =
      .ok ((gs.map (· + 32#6)).map (sym A) ++ List.replicate n P) := by
    rw [hm.1, eq_map_sym_of_indices hA.1 h, rot_symbols_markers hA]
  rw [decryptRotation_of_rot_ok hrot]
  exact decodeText_of_strip hA (strip_append_replicate P _ n (map_sym_getLast?_ne hA _))

end Cipher

/-- Modulo 64 the difference with 32 is the sum with 32. -/
theorem sub_32_emod_64_eq (g : Idx) : ((g.toNat : Int) - 32) % 64 = ((g + 32#6).toNat : Int) := by
  have hsum : (g + 32#6).toNat = (g.toNat + 32) % 64 := BitVec.toNat_add g 32#6
  omega

theorem eq_map_add_32_of_emod {gs hs : List Idx}
    (h : hs.map (fun h => (h.toNat : Int)) = gs.map (fun g => ((g.toNat : Int) - 32) % 64)) :
    hs = gs.map (· + 32#6) := by
  have hinj : Function.Injective fun g : Idx => (g.toNat : Int) :=
    Int.ofNat_injective.comp fun _ _ => BitVec.eq_of_toNat_eq
  apply List.map_injective_iff.mpr hinj
  rw [h, List.map_map]
  exact List.map_congr_left fun g _ => sub_32_emod_64_eq g

/-! ### The commands (41_rotation.md section 2) -/

section Commands

variable (s : State)

theorem exec_rots :
    exec .rots s = .next (dataCommand readsMOnly (rot s.alpha s.pad s.m) s) := rfl

theorem exec_encrot :
    exec .encrot s = .next (dataCommand readsMOnly (encryptRotation s.alpha s.pad s.m) s) := rfl

theorem exec_decrot :
    exec .decrot s = .next (dataCommand readsMOnly (decryptRotation s.alpha s.pad s.m) s) := rfl

end Commands

/-! ### The obligations -/

/-- Settles O36: the scan finds the least cell that is neither symbol nor marker; else every cell
of Q is the rotation of the cell of M at its place. -/
theorem rotsRotatesEverySymbol : Obligations.RotsRotatesEverySymbol := by
  refine ⟨rfl, fun s hcfg hA => ⟨exec_of_mperr (by decide) (by decide) hcfg,
    fun i c hm hbad => ?invsym, fun hm hcells => ?rotated⟩⟩
  case invsym =>
    exact exec_of_invsym (exec_rots s) hcfg (not_operandFlagged_of_mperr hm) (rot_of_firstBad hbad)
  case rotated =>
    obtain ⟨Q, hQ⟩ := rot_ok_of_symbols_markers hcells
    have hlen := rot_length hQ
    have hflag := not_operandFlagged_of_mperr hm
    constructor
    · intro hlong
      exact exec_of_tooLong (exec_rots s) hcfg hflag hQ (hlen ▸ hlong)
    · intro hfit
      refine ⟨Q, exec_of_fits (exec_rots s) hcfg hflag hQ (hlen ▸ hfit), hlen,
        fun i => ⟨rot_getElem?_pad hQ, fun g hg _ => ?_⟩⟩
      rw [getElem?_add_32_mod_64 hA.1]
      exact rot_getElem?_sym hA hQ (hg.trans (sym_eq_getElem hA.1 g))

/-- Settles O37: as O34, with every index rotated; the rotation keeps the length of the encoding. -/
theorem encrotRotatesTheEncoding : Obligations.EncrotRotatesTheEncoding := by
  refine ⟨rfl, fun s hcfg hA => ⟨exec_of_mperr (by decide) (by decide) hcfg,
    fun hm hlong => ?capacity, fun hm hfit => ?result⟩⟩
  all_goals
    have hr := encryptRotation_eq_symbolsAt hA s.m
    have hlen := encryptRotation_length hr
    have hflag := not_operandFlagged_of_mperr hm
  case capacity =>
    exact exec_of_tooLong (exec_encrot s) hcfg hflag hr (hlen ▸ hlong)
  case result =>
    have hcount : (groupsOf (textToBits s.m)).length = symbolCount s.m.length := by
      rw [groupsOf_length, textToBits_length, groupCount_eq_symbolCount]
    refine ⟨groupsOf (textToBits s.m), _,
      exec_of_fits (exec_encrot s) hcfg hflag hr (hlen ▸ hfit), hcount, ?_,
      fun j g => groupOf_of_groupsOf⟩
    simpa [symbolsAt_eq_map_sym hA.1] using hlen

/-- Settles O38: the rotation runs over the whole of M before the decoding, so its error comes
first; the markers it passes through are left for the decoding. -/
theorem decrotDecodesTheRotatedSymbols : Obligations.DecrotDecodesTheRotatedSymbols := by
  refine ⟨rfl, fun s hcfg hA => ⟨exec_of_mperr (by decide) (by decide) hcfg,
    fun i c hm hbad => ?invsym, fun S n i hm hcells hmark hbad => ?marker,
    fun S n gs hs hm hmark hidx hsub => ?symbols⟩⟩
  all_goals have hflag := not_operandFlagged_of_mperr hm
  case invsym =>
    exact exec_of_invsym (exec_decrot s) hcfg hflag
      (decryptRotation_of_rot_error (rot_of_firstBad hbad))
  case marker =>
    exact exec_of_invsym (exec_decrot s) hcfg hflag
      (decryptRotation_of_firstMarker hA hcells hmark hbad)
  case symbols =>
    obtain rfl := eq_map_add_32_of_emod hsub
    have hr := decryptRotation_of_indices hA hmark hidx
    have hlen := bitsToText_groups_length (gs.map (· + 32#6))
    rw [List.length_map] at hlen
    constructor
    · intro hlong
      exact exec_of_tooLong (exec_decrot s) hcfg hflag hr (hlen ▸ hlong)
    · intro hfit
      exact ⟨_, exec_of_fits (exec_decrot s) hcfg hflag hr (hlen ▸ hfit),
        textOfGroups_bitsToText _⟩

end Sys2Proof.Proofs

/-! The Keyed Additive Cipher family (spec/42_additive.md section 1): what REPK, ADDS, SUBS, ENCADD
and DECADD put into Q, and which error each one reports. -/

namespace Sys2Proof.Proofs

open Sys2Proof Sys2Proof.Machine Sys2Proof.Claims

/-! ### The outcomes of a keyed command, in the words of the claims (30_encoding.md R78) -/

section KeyedOutcomes

variable {i : Instr} {s : State}

theorem exec_of_kperr (hi : i ∈ keyedCommands) (hcfg : s.cfgok = true) (hflag : s.kperr = true) :
    exec i s = .next (failedWith s 7#4 0 false) :=
  exec_of_operandFlagged hcfg (keyedCommands_subset_dataCommands hi)
    (operandFlagged_of_kperr hflag hi)

theorem exec_of_mperr_or_kperr (hi : i ∈ keyedCommands) (hrepk : i ≠ .repk)
    (hcfg : s.cfgok = true) (hflag : s.mperr = true ∨ s.kperr = true) :
    exec i s = .next (failedWith s 7#4 0 false) :=
  hflag.elim (exec_of_mperr (keyedCommands_subset_dataCommands hi) hrepk hcfg)
    (exec_of_kperr hi hcfg)

theorem not_operandFlagged_of_kperr (hk : s.kperr = false) :
    operandFlagged readsKOnly s = false :=
  (operandFlagged_readsKOnly s).trans hk

theorem not_operandFlagged_of_mperr_kperr (hm : s.mperr = false) (hk : s.kperr = false) :
    operandFlagged readsMK s = false := by
  rw [operandFlagged_readsMK, hm, hk]; rfl

theorem exec_of_invkey {rd : Reads} {r : Except FnError Cells}
    (hexec : exec i s = .next (dataCommand rd r s)) (hcfg : s.cfgok = true)
    (hflag : operandFlagged rd s = false) (hr : r = .error .invkey) :
    exec i s = .next (failedWith s 3#4 0 false) := by
  rw [hexec, hr, dataCommand_raised hcfg hflag]; rfl

end KeyedOutcomes

/-! ### The repeated key (42_additive.md R140) -/

/-- A non-empty key repeats to any number of cells. -/
theorem repeatKey_ok {S : Cells} (hS : S ≠ []) (n : Nat) :
    ∃ R, repeatKey S n = .ok R ∧ R.length = n ∧ ∀ i, i < n → R[i]? = S[i % S.length]? := by
  refine ⟨_, repeatKey_of_ne hS n, by simp, fun i hi => ?_⟩
  have hmod : i % S.length < S.length := Nat.mod_lt _ (List.length_pos_iff.mpr hS)
  simp [hi, hmod]

/-! ### Combining symbols (42_additive.md R141, R142) -/

/-- The indices of a message with those of the key, repeated (R140), combined by `op`. -/
def combinedIndices (op : Idx → Idx → Idx) (gs ks : List Idx) : List Idx :=
  gs.mapIdx fun i g => op g (ks.getD (i % ks.length) 0#6)

@[simp] theorem combinedIndices_length (op : Idx → Idx → Idx) (gs ks : List Idx) :
    (combinedIndices op gs ks).length = gs.length := by
  simp [combinedIndices]

theorem combinedIndices_getElem? {op : Idx → Idx → Idx} {gs ks : List Idx} {i : Nat} {a b : Idx}
    (ha : gs[i]? = some a) (hb : ks[i % ks.length]? = some b) :
    (combinedIndices op gs ks)[i]? = some (op a b) := by
  simp [combinedIndices, List.getElem?_mapIdx, ha, hb]

section Combine

variable {A : Cells} {P : Byte} {op : Idx → Idx → Idx} {M S : Cells}

/-- The whole key is checked, whatever the message is. -/
theorem combineSyms_of_firstBad_key {j : Nat} {c : Byte} (h : FirstBad S (· ∈ A) j c) :
    combineSyms A op M S = .error (.invsym j true) :=
  combineSyms_bad_key (List.ne_nil_of_mem (List.mem_of_getElem? h.1)) (scan_lookup_of_firstBad h)

theorem combineCell_ok_of_mem {ks : List Idx} {i : Nat} {c : Byte} (hc : c ∈ A) :
    ∃ d, combineCell A op ks i c = .ok d := by
  cases hcell : combineCell A op ks i c with
  | ok d => exact ⟨d, rfl⟩
  | error e => exact absurd hc (combineCell_eq_error_iff.mp hcell).1

/-- The message is checked once the key is known to be symbols. -/
theorem combineSyms_of_firstBad_message {i : Nat} {c : Byte} (hS : S ≠ []) (hkey : ∀ d ∈ S, d ∈ A)
    (h : FirstBad M (· ∈ A) i c) : combineSyms A op M S = .error (.invsym i false) := by
  obtain ⟨ks, hks⟩ := scan_lookup_ok_of_mem (inK := true) (i := 0) hkey
  rw [combineSyms_of_key hS hks, scan_eq_error_iff]
  exact ⟨i, c, h.1, combineCell_eq_error_iff.mpr ⟨h.2.1, by rw [Nat.zero_add]⟩,
    fun _ _ hj hd => combineCell_ok_of_mem (good_of_lt_firstBad h hj hd)⟩

theorem combineSyms_of_indices {gs ks : List Idx} (hA : AlphabetOk A P) (hS : S ≠ [])
    (hM : Indices A M gs) (hK : Indices A S ks) :
    combineSyms A op M S = .ok ((combinedIndices op gs ks).map (sym A)) := by
  obtain rfl := eq_map_sym_of_indices hA.1 hM
  obtain rfl := eq_map_sym_of_indices hA.1 hK
  exact combineSyms_map_sym hA.1 hA.2.1 op gs ks (mt List.map_eq_nil_iff.mpr hS)

end Combine

theorem length_eq_of_indices {A S : Cells} {gs : List Idx} (h : Indices A S gs) :
    gs.length = S.length := by
  simpa using congrArg List.length h

/-- The symbol at the sum of two indices, modulo 64 (00_scope.md R9). -/
theorem getElem?_add_mod_64 {A : Cells} (hl : A.length = 64) (a b : Idx) :
    A[(a.toNat + b.toNat) % 64]? = some (sym A (a + b)) := by
  rw [← sym_eq_getElem hl, BitVec.toNat_add]

/-- The difference of two indices is the one of integers, modulo 64 into 0..63 (00_scope.md R9). -/
theorem toNat_sub_idx (a b : Idx) :
    ((a - b).toNat : Int) = ((a.toNat : Int) - b.toNat) % 64 := by
  have hsub : (a - b).toNat = (64 - b.toNat + a.toNat) % 64 := BitVec.toNat_sub a b
  omega

/-! ### The groups of a text (40_bit_codec.md R102) -/

theorem groupsOf_textToBits_length (T : Cells) :
    (groupsOf (textToBits T)).length = symbolCount T.length := by
  rw [groupsOf_length, textToBits_length, groupCount_eq_symbolCount]

/-- Its bits determine a group. -/
theorem groupOf_unique {T : Cells} {j : Nat} {g g' : Idx} (h : GroupOf T j g)
    (h' : GroupOf T j g') : g = g' := by
  refine BitVec.eq_of_getLsbD_eq fun i hi => ?_
  have hbit := (h (5 - i) (by omega)).trans (h' (5 - i) (by omega)).symm
  rwa [show 5 - (5 - i) = i by omega] at hbit

theorem groupsOf_of_groupOf {T : Cells} {j : Nat} {g : Idx} (hj : j < symbolCount T.length)
    (h : GroupOf T j g) : (groupsOf (textToBits T))[j]? = some g := by
  have hget := List.getElem?_eq_getElem (groupsOf_textToBits_length T ▸ hj)
  rw [hget, groupOf_unique h (groupOf_of_groupsOf hget)]

/-- The group of a non-empty key that meets place `j` of the message. -/
theorem groupsOf_mod_of_groupOf {K : Cells} {j : Nat} {b : Idx} (hK : K ≠ [])
    (h : GroupOf K (j % symbolCount K.length) b) :
    (groupsOf (textToBits K))[j % (groupsOf (textToBits K)).length]? = some b := by
  have hpos : 0 < symbolCount K.length :=
    groupsOf_textToBits_length K ▸ List.length_pos_iff.mpr (groupsOf_textToBits_ne_nil hK)
  rw [groupsOf_textToBits_length]
  exact groupsOf_of_groupOf (Nat.mod_lt _ hpos) h

/-! ### The encryption and the decryption (42_additive.md R144, R145) -/

section AdditiveCipher

variable {A : Cells} {P : Byte} {C K : Cells}

theorem encryptAdditive_eq_combined (hA : AlphabetOk A P) (T : Cells) (hK : K ≠ []) :
    encryptAdditive A P T K = .ok ((combinedIndices (fun a b => a + b) (groupsOf (textToBits T))
      (groupsOf (textToBits K))).map (sym A)) :=
  encryptAdditive_eq hA T hK

/-- The ciphertext is not stripped, so its first cell that is no symbol is reported. -/
theorem decryptAdditive_of_firstBad {i : Nat} {c : Byte} (hA : AlphabetOk A P) (hK : K ≠ [])
    (h : FirstBad C (· ∈ A) i c) : decryptAdditive A P C K = .error (.invsym i false) := by
  have hkey : ∀ d ∈ (groupsOf (textToBits K)).map (sym A), d ∈ A :=
    List.forall_mem_map.mpr fun g _ => sym_mem hA.1 g
  have hne : (groupsOf (textToBits K)).map (sym A) ≠ [] :=
    mt List.map_eq_nil_iff.mp (groupsOf_textToBits_ne_nil hK)
  rw [decryptAdditive, encodeKey_eq hA hK]
  simp only [subsyms, combineSyms_of_firstBad_message hne hkey h]

theorem decryptAdditive_of_indices {gs : List Idx} (hA : AlphabetOk A P) (hK : K ≠ [])
    (h : Indices A C gs) :
    decryptAdditive A P C K = .ok (bitsToText ((combinedIndices (fun a b => a - b) gs
      (groupsOf (textToBits K))).flatMap bits6)) := by
  obtain rfl := eq_map_sym_of_indices hA.1 h
  rw [decryptAdditive, encodeKey_eq hA hK]
  simp only [subsyms, combineSyms_map_sym hA.1 hA.2.1 _ gs _ (groupsOf_textToBits_ne_nil hK)]
  exact decodeText_of_strip hA (strip_map_sym hA _)

end AdditiveCipher

/-! ### The commands (42_additive.md section 1) -/

section Commands

variable (s : State)

theorem exec_repk :
    exec .repk s = .next (dataCommand readsKOnly (repeatKey s.k s.narg.toNat) s) := execRepk_eq s

theorem exec_adds : exec .adds s =
    .next (dataCommand readsMK (combineSyms s.alpha (fun a b => a + b) s.m s.k) s) := rfl

theorem exec_subs : exec .subs s =
    .next (dataCommand readsMK (combineSyms s.alpha (fun a b => a - b) s.m s.k) s) := rfl

theorem exec_encadd : exec .encadd s =
    .next (dataCommand readsMK (encryptAdditive s.alpha s.pad s.m s.k) s) := rfl

theorem exec_decadd : exec .decadd s =
    .next (dataCommand readsMK (decryptAdditive s.alpha s.pad s.m s.k) s) := rfl

end Commands

/-- What the rules of `ADDS` and `SUBS` share (R147, R148): the errors in their order, and the place
`target` in the Alphabet of the cell made from the indices of a message cell and a key cell. -/
abbrev CombinesSymbols (i : Instr) (target : Idx → Idx → Nat) (s : State) : Prop :=
  (s.mperr = true ∨ s.kperr = true → exec i s = .next (failedWith s 7#4 0 false)) ∧
  (s.mperr = false → s.kperr = false → s.k = [] → exec i s = .next (failedWith s 3#4 0 false)) ∧
  (∀ j c, s.mperr = false → s.kperr = false → FirstBad s.k (· ∈ s.alpha) j c →
    exec i s = .next (failedWith s 2#4 j true)) ∧
  (∀ j c, s.mperr = false → s.kperr = false → s.k ≠ [] → (∀ d ∈ s.k, d ∈ s.alpha) →
    FirstBad s.m (· ∈ s.alpha) j c → exec i s = .next (failedWith s 2#4 j false)) ∧
  (∀ gs ks, s.mperr = false → s.kperr = false → s.k ≠ [] → Indices s.alpha s.m gs →
    Indices s.alpha s.k ks →
    (s.params.capQ < s.m.length → exec i s = .next (failedWith s 5#4 0 false)) ∧
    (s.m.length ≤ s.params.capQ →
      ∃ Q, exec i s = .next (finished s Q) ∧ Q.length = s.m.length ∧
        ∀ j a b, gs[j]? = some a → ks[j % s.k.length]? = some b →
          Q[j]? = s.alpha[target a b]?))

/-- A keyed command on `combineSyms` meets the shared rule when `op` lands on `target`. -/
theorem combinesSymbols_of_exec {i : Instr} {s : State} {op : Idx → Idx → Idx}
    {target : Idx → Idx → Nat}
    (hexec : exec i s = .next (dataCommand readsMK (combineSyms s.alpha op s.m s.k) s))
    (htarget : ∀ a b, (op a b).toNat = target a b) (hi : i ∈ keyedCommands) (hrepk : i ≠ .repk)
    (hcfg : s.cfgok = true) (hA : AlphabetOk s.alpha s.pad) : CombinesSymbols i target s := by
  refine ⟨exec_of_mperr_or_kperr hi hrepk hcfg, fun hm hk hempty => ?invkey,
    fun j c hm hk hbad => ?badKey, fun j c hm hk hne hkey hbad => ?badMessage,
    fun gs ks hm hk hne hgs hks => ?symbols⟩
  all_goals have hflag := not_operandFlagged_of_mperr_kperr hm hk
  case invkey =>
    exact exec_of_invkey hexec hcfg hflag (by rw [hempty, combineSyms_empty_key])
  case badKey =>
    exact exec_of_invsym hexec hcfg hflag (combineSyms_of_firstBad_key hbad)
  case badMessage =>
    exact exec_of_invsym hexec hcfg hflag (combineSyms_of_firstBad_message hne hkey hbad)
  case symbols =>
    have hr := combineSyms_of_indices (op := op) hA hne hgs hks
    have hlen : ((combinedIndices op gs ks).map (sym s.alpha)).length = s.m.length := by
      simp [length_eq_of_indices hgs]
    constructor
    · intro hlong
      exact exec_of_tooLong hexec hcfg hflag hr (hlen ▸ hlong)
    · intro hfit
      refine ⟨_, exec_of_fits hexec hcfg hflag hr (hlen ▸ hfit), hlen, fun j a b ha hb => ?_⟩
      rw [← length_eq_of_indices hks] at hb
      rw [List.getElem?_map, combinedIndices_getElem? ha hb, ← htarget, sym_eq_getElem hA.1]
      rfl

/-! ### The obligations -/

/-- Settles O39: the result is the repetition of the key, so its length is `NARG`. -/
theorem repkRepeatsTheKey : Obligations.RepkRepeatsTheKey := by
  refine ⟨rfl, fun s hcfg => ⟨exec_of_kperr (by decide) hcfg, fun hk hempty => ?invkey,
    fun hk hne hlong => ?capacity, fun hk hne hfit => ?result⟩⟩
  all_goals have hflag := not_operandFlagged_of_kperr hk
  case invkey =>
    exact exec_of_invkey (exec_repk s) hcfg hflag (by rw [hempty, repeatKey_nil])
  all_goals obtain ⟨R, hR, hlen, hcells⟩ := repeatKey_ok hne s.narg.toNat
  case capacity =>
    exact exec_of_tooLong (exec_repk s) hcfg hflag hR (hlen ▸ hlong)
  case result =>
    exact ⟨R, exec_of_fits (exec_repk s) hcfg hflag hR (hlen ▸ hfit), hlen, hcells⟩

/-- Settles O40: the addition of indices is the one modulo 64. -/
theorem addsAddsTheKeyIndices : Obligations.AddsAddsTheKeyIndices :=
  ⟨rfl, fun s hcfg hA =>
    combinesSymbols_of_exec (exec_adds s) BitVec.toNat_add (by decide) (by decide) hcfg hA⟩

/-- Settles O41: the subtraction of indices is the one modulo 64. -/
theorem subsSubtractsTheKeyIndices : Obligations.SubsSubtractsTheKeyIndices :=
  ⟨rfl, fun s hcfg hA => combinesSymbols_of_exec (exec_subs s)
    (fun a b => by rw [← toNat_sub_idx]; rfl) (by decide) (by decide) hcfg hA⟩

/-- Settles O42: with a non-empty key the ciphertext always exists; its cells are the sums of the
groups of the message and of the repeated key. -/
theorem encaddAddsTheEncodedKey : Obligations.EncaddAddsTheEncodedKey := by
  refine ⟨rfl, fun s hcfg hA => ⟨exec_of_mperr_or_kperr (by decide) (by decide) hcfg,
    fun hm hk hempty => ?invkey, fun hm hk hne hlong => ?capacity, fun hm hk hne hfit => ?result⟩⟩
  all_goals have hflag := not_operandFlagged_of_mperr_kperr hm hk
  case invkey =>
    exact exec_of_invkey (exec_encadd s) hcfg hflag (by rw [hempty, encryptAdditive_empty_key])
  all_goals
    have hr := encryptAdditive_eq_combined hA s.m hne
    have hlen := groupsOf_textToBits_length s.m
    rw [← combinedIndices_length (fun a b => a + b) _ (groupsOf (textToBits s.k)),
      ← List.length_map (sym s.alpha)] at hlen
  case capacity =>
    exact exec_of_tooLong (exec_encadd s) hcfg hflag hr (hlen ▸ hlong)
  case result =>
    refine ⟨_, exec_of_fits (exec_encadd s) hcfg hflag hr (hlen ▸ hfit), hlen,
      fun j a b hj ha hb => ?_⟩
    rw [List.getElem?_map, combinedIndices_getElem? (groupsOf_of_groupOf (hlen ▸ hj) ha)
      (groupsOf_mod_of_groupOf hne hb), getElem?_add_mod_64 hA.1]
    rfl

/-- Settles O43: the key's encoding is symbols, so only the message can be reported; what is decoded
is the symbols of the differences, which hold no marker to strip. -/
theorem decaddSubtractsTheEncodedKey : Obligations.DecaddSubtractsTheEncodedKey := by
  refine ⟨rfl, fun s hcfg hA => ⟨exec_of_mperr_or_kperr (by decide) (by decide) hcfg,
    fun hm hk hempty => ?invkey, fun i c hm hk hne hbad => ?invsym,
    fun gs hm hk hne hgs => ?symbols⟩⟩
  all_goals have hflag := not_operandFlagged_of_mperr_kperr hm hk
  case invkey =>
    exact exec_of_invkey (exec_decadd s) hcfg hflag (by rw [hempty, decryptAdditive_empty_key])
  case invsym =>
    exact exec_of_invsym (exec_decadd s) hcfg hflag (decryptAdditive_of_firstBad hA hne hbad)
  case symbols =>
    have hr := decryptAdditive_of_indices hA hne hgs
    have hlen := bitsToText_groups_length
      (combinedIndices (fun a b => a - b) gs (groupsOf (textToBits s.k)))
    rw [combinedIndices_length, length_eq_of_indices hgs] at hlen
    constructor
    · intro hlong
      exact exec_of_tooLong (exec_decadd s) hcfg hflag hr (hlen ▸ hlong)
    · intro hfit
      refine ⟨_, _, exec_of_fits (exec_decadd s) hcfg hflag hr (hlen ▸ hfit),
        combinedIndices_length _ _ _, fun j a b h ha hb hh => ?_, textOfGroups_bitsToText _⟩
      rw [combinedIndices_getElem? ha (groupsOf_mod_of_groupOf hne hb)] at hh
      rw [← Option.some_inj.mp hh, toNat_sub_idx]

end Sys2Proof.Proofs

/-! The buffer control family (spec/43_buffer_control.md): what CLR, CLRM, CLRK, QTOM and QTOK change
and leave, and what the keyed commands report once K is empty. -/

namespace Sys2Proof.Proofs

open Sys2Proof Sys2Proof.Machine Sys2Proof.Claims

/-! ### The commands in a configured state (43_buffer_control.md R160 to R164) -/

section BufferControl

variable {s : State} (hcfg : s.cfgok = true)

include hcfg

theorem exec_clr : exec .clr s =
    .next ((((s.loadM []).loadK []).setNarg 0#32).commit []) :=
  congrArg _ (onConfigured_of_true hcfg)

theorem exec_clrm : exec .clrm s = .next (s.loadM []).succeed :=
  congrArg _ (onConfigured_of_true hcfg)

theorem exec_clrk : exec .clrk s = .next (s.loadK []).succeed :=
  congrArg _ (onConfigured_of_true hcfg)

theorem exec_qtom : exec .qtom s = .next
    (if s.params.capM < s.q.length then s.report .capacity 0 false else (s.loadM s.q).succeed) :=
  congrArg _ (onConfigured_of_true hcfg)

theorem exec_qtok : exec .qtok s = .next
    (if s.params.capK < s.q.length then s.report .capacity 0 false else (s.loadK s.q).succeed) :=
  congrArg _ (onConfigured_of_true hcfg)

theorem exec_qtok_of_fits (hfit : s.q.length ≤ s.params.capK) :
    exec .qtok s = .next (s.loadK s.q).succeed := by
  rw [exec_qtok hcfg, if_neg (Nat.not_lt.mpr hfit)]

/-- The reset value of every field but the configuration is its cleared value (10_state.md R39), so a
reset that loads the configuration `s` has gives `s` cleared. -/
theorem resetWith_eq_cleared (hload : s.ConfigAsLoaded) :
    taken (State.resetWith s.params) s.inbox s.reply =
      (((s.loadM []).loadK []).setNarg 0#32).commit [] := by
  obtain ⟨hok, halpha, hpad⟩ := hload
  rw [State.resetWith, ← hok, ← halpha, ← hpad, if_pos hcfg]
  rfl

end BufferControl

theorem report_capacity_eq_reported (s : State) :
    s.report .capacity 0 false = reported s 5#4 := rfl

/-! ### The keyed commands with K empty (43_buffer_control.md R162) -/

section EmptyKey

variable {i : Instr} {s : State}

/-- The function of every keyed command raises `INVKEY` on the empty key (60_exceptions.md R173). -/
theorem exec_eq_dataCommand_of_k_nil (hi : i ∈ keyedCommands) (hempty : s.k = []) :
    exec i s = .next (dataCommand (readsOf i) (.error .invkey) s) := by
  simp only [keyedCommands, List.mem_cons, List.not_mem_nil, or_false] at hi
  obtain rfl | rfl | rfl | rfl | rfl := hi
  · rw [exec_repk, hempty, repeatKey_nil]; rfl
  · rw [exec_adds, hempty, combineSyms_empty_key]; rfl
  · rw [exec_subs, hempty, combineSyms_empty_key]; rfl
  · rw [exec_encadd, hempty, encryptAdditive_empty_key]; rfl
  · rw [exec_decadd, hempty, decryptAdditive_empty_key]; rfl

theorem not_operandFlagged_readsOf (hm : i ≠ .repk → s.mperr = false) (hk : s.kperr = false) :
    operandFlagged (readsOf i) s = false := by
  by_cases hrepk : i = .repk
  · simp [operandFlagged, readsOf, hrepk, hk]
  · simp [operandFlagged, readsOf, hm hrepk, hk]

/-- With no flag on what it reads, a keyed command fails with `INVKEY` when K is empty; `REPK` does
so whatever `MPERR` is. -/
theorem exec_of_k_nil (hi : i ∈ keyedCommands) (hcfg : s.cfgok = true) (hempty : s.k = [])
    (hm : i ≠ .repk → s.mperr = false) (hk : s.kperr = false) :
    exec i s = .next (failedWith s 3#4 0 false) :=
  exec_of_invkey (exec_eq_dataCommand_of_k_nil hi hempty) hcfg (not_operandFlagged_readsOf hm hk)
    rfl

end EmptyKey

/-! ### The obligations -/

/-- Settles O25: the state `CLRK` leaves has K empty and `KPERR` clear, so a keyed command gets past
step 1 of R78 and meets the empty key. -/
theorem clrkClearsTheKey : Obligations.ClrkClearsTheKey := by
  refine ⟨rfl, fun s hcfg => ⟨_, exec_clrk hcfg, rfl, ?repk, fun hm i hi => ?keyed⟩⟩
  case repk => exact exec_of_k_nil (by decide) hcfg rfl (absurd rfl) rfl
  case keyed => exact exec_of_k_nil hi hcfg rfl (fun _ => hm) rfl

/-- Settles O27: the two branches of R164; an empty Q always fits, and then K is empty. -/
theorem qtokCopiesTheResultToTheKey : Obligations.QtokCopiesTheResultToTheKey := by
  refine ⟨rfl, fun s hcfg => ⟨exec_qtok_of_fits hcfg, fun hlong => ?capacity,
    fun hq hm => ?emptyResult⟩⟩
  case capacity => rw [exec_qtok hcfg, if_pos hlong, report_capacity_eq_reported]
  case emptyResult =>
    have hfit : s.q.length ≤ s.params.capK := by simp [hq]
    exact ⟨_, exec_qtok_of_fits hcfg hfit, fun i hi => exec_of_k_nil hi hcfg hq (fun _ => hm) rfl⟩

/-- Settles O23: the corner case is the same state, read as a reset. -/
theorem clrClearsWhatTheHostCanClear : Obligations.ClrClearsWhatTheHostCanClear :=
  ⟨rfl, fun _ hcfg => ⟨exec_clr hcfg, fun hload => by
    rw [exec_clr hcfg, resetWith_eq_cleared hcfg hload]⟩⟩

/-- Settles O24: loading M with no cell clears its push flag, and success the error registers. -/
theorem clrmClearsTheMessage : Obligations.ClrmClearsTheMessage :=
  ⟨rfl, fun _ hcfg => exec_clrm hcfg⟩

/-- Settles O26: the two branches of R163. -/
theorem qtomCopiesTheResultToTheMessage : Obligations.QtomCopiesTheResultToTheMessage := by
  refine ⟨rfl, fun s hcfg => ⟨fun hfit => ?copied, fun hlong => ?capacity⟩⟩
  case copied => rw [exec_qtom hcfg, if_neg (Nat.not_lt.mpr hfit)]; rfl
  case capacity => rw [exec_qtom hcfg, if_pos hlong, report_capacity_eq_reported]

end Sys2Proof.Proofs

/-! The decoder and the encoder (spec/30_encoding.md section 1): they are inverse to each other. -/

namespace Sys2Proof.Proofs

open Sys2Proof Sys2Proof.Machine Sys2Proof.Claims

theorem decode_encode (i : Instr) : decode (encode i) = .ok i := by
  cases i <;> rfl

theorem encode_zeroField (i : Instr) : (encode i).extractLsb' 8 24 = 0#24 := by
  cases i <;> rfl

theorem decode_eq_ok_iff {w : Word} {i : Instr} : decode w = .ok i ↔
    w.extractLsb' 8 24 = 0#24 ∧ opcodeOf (w.extractLsb' 0 8) = some i := by
  rcases decode_cases w with ⟨j, hok, hzero, hop⟩ | ⟨herr, -, hnone⟩ | ⟨herr, hzero⟩
  · simp [hok, hzero, hop]
  · simp [herr, hnone]
  · simp [herr, hzero]

/-- Settles O1: a word is its two fields, and both are those of the command's own word. -/
theorem decodeAndEncodeAgree : Obligations.DecodeAndEncodeAgree := by
  refine fun w i => ⟨fun hdec => ?_, fun henc => henc ▸ decode_encode i⟩
  obtain ⟨hzero, hop⟩ := decode_eq_ok_iff.mp hdec
  calc encode i = (encode i).extractLsb' 8 24 ++ (encode i).extractLsb' 0 8 := word_eq_fields _
    _ = w.extractLsb' 8 24 ++ w.extractLsb' 0 8 := by
      rw [encode_zeroField, hzero, opcodeOf_eq_some hop]
    _ = w := (word_eq_fields w).symm

/-- Settles O2: the six closed words, run through the decoder. -/
theorem opcodeMapWordsDecode : Obligations.OpcodeMapWordsDecode :=
  ⟨rfl, rfl, rfl, rfl, rfl, rfl⟩

/-- Settles O4: a write to `CMD` runs what its word decodes to. -/
theorem stepRunsTheDecodedCommand : Obligations.StepRunsTheDecodedCommand := by
  intro s w i rest hin hdec _
  rw [step_write_cmd hin, writeCmd, hdec]

end Sys2Proof.Proofs

/-! What one event can do to the state, said once (spec/20_memory.md R61): every invariant and every
frame claim is read off this list. -/

namespace Sys2Proof.Proofs

open Sys2Proof Sys2Proof.Machine Sys2Proof.Claims

/-! ### The function of each data command (30_encoding.md R73) -/

/-- The function a data command evaluates, on `ALPHA`, `PAD`, M, K and `NARG`. The buffer
control commands evaluate none. -/
def dataFunction (i : Instr) (A : Cells) (P : Byte) (m k : Cells) (n : Nat) :
    Except FnError Cells :=
  match i with
  | .t2b => .ok (toCells (textToBits m))
  | .b2t => (fromCells m).map bitsToText
  | .b2e => (fromCells m).map (bitsToEncoded A P)
  | .e2b => (encodedToBits A P m).map toCells
  | .strip => .ok (strip P m)
  | .pad4 => .ok (pad4 P m)
  | .enc => .ok (encodeText A P m)
  | .dec => decodeText A P m
  | .rots => rot A P m
  | .encrot => encryptRotation A P m
  | .decrot => decryptRotation A P m
  | .repk => repeatKey k n
  | .adds => addsyms A m k
  | .subs => subsyms A m k
  | .encadd => encryptAdditive A P m k
  | .decadd => decryptAdditive A P m k
  | _ => .ok []

/-- The function of a data command on the operands that `s` holds. -/
def dataFunctionAt (i : Instr) (s : State) : Except FnError Cells :=
  dataFunction i s.alpha s.pad s.m s.k s.narg.toNat

/-- Every data command executes by R78 on its function; `REPK` too, which computes less. -/
theorem exec_eq_dataCommand_dataFunctionAt {i : Instr} (hi : i ∈ dataCommands) (s : State) :
    exec i s = .next (dataCommand (readsOf i) (dataFunctionAt i s) s) := by
  cases i with
  | repk => exact exec_repk s
  | clr | clrm | clrk | qtom | qtok => exact absurd hi (by decide)
  | _ => rfl

/-! ### The list of effects -/

/-- What an event can make of a state with `CFGOK = 1`, other than a reset and the events
that change nothing. -/
inductive Effect (s : State) : Event → State → Prop
  | narg (v : Word) : Effect s (.write 3 v) (s.setNarg v)
  | qptr (v : Word) : Effect s (.write 9 v) (s.setQptr v)
  | pushM (v : Word) (hroom : s.m.length < s.params.capM) :
      Effect s (.write 7 v) { s with m := s.m ++ [v.setWidth 8] }
  | refuseM (v : Word) : Effect s (.write 7 v) { s with mperr := true }
  | pushK (v : Word) (hroom : s.k.length < s.params.capK) :
      Effect s (.write 8 v) { s with k := s.k ++ [v.setWidth 8] }
  | refuseK (v : Word) : Effect s (.write 8 v) { s with kperr := true }
  | illegal (w : Word) : Effect s (.write 0 w) (s.report .illcmd 0 false)
  | flagged (i : Instr) (hi : i ∈ dataCommands) :
      Effect s (.write 0 (encode i)) (s.fail .operand 0 false)
  | invsym (i : Instr) (hi : i ∈ dataCommands) (j : Nat) (inK : Bool)
      (hraise : dataFunctionAt i s = .error (.invsym j inK)) :
      Effect s (.write 0 (encode i)) (s.fail .invsym j inK)
  | invkey (i : Instr) (hi : i ∈ dataCommands) :
      Effect s (.write 0 (encode i)) (s.fail .invkey 0 false)
  | badbit (i : Instr) (hi : i ∈ dataCommands) (j : Nat)
      (hraise : dataFunctionAt i s = .error (.badbit j)) :
      Effect s (.write 0 (encode i)) (s.fail .badbit j false)
  | tooLong (i : Instr) (hi : i ∈ dataCommands) :
      Effect s (.write 0 (encode i)) (s.fail .capacity 0 false)
  | commit (i : Instr) (hi : i ∈ dataCommands) (r : Cells) (hfit : r.length ≤ s.params.capQ) :
      Effect s (.write 0 (encode i)) (s.commit r)
  | clr : Effect s (.write 0 (encode .clr)) ((((s.loadM []).loadK []).setNarg 0#32).commit [])
  | clrm : Effect s (.write 0 (encode .clrm)) (s.loadM []).succeed
  | clrk : Effect s (.write 0 (encode .clrk)) (s.loadK []).succeed
  | qtom (hfit : s.q.length ≤ s.params.capM) :
      Effect s (.write 0 (encode .qtom)) (s.loadM s.q).succeed
  | qtomFull : Effect s (.write 0 (encode .qtom)) (s.report .capacity 0 false)
  | qtok (hfit : s.q.length ≤ s.params.capK) :
      Effect s (.write 0 (encode .qtok)) (s.loadK s.q).succeed
  | qtokFull : Effect s (.write 0 (encode .qtok)) (s.report .capacity 0 false)

/-! ### With `CFGOK = 0` a write does nothing (20_memory.md R52, 70_reset_and_hazards.md R193) -/

theorem exec_of_not_cfgok {s : State} (hcfg : s.cfgok = false) (i : Instr) :
    exec i s = .next s := by
  cases i <;> exact congrArg _ (onConfigured_of_false hcfg)

theorem regWrite_of_not_cfgok {s : State} (hcfg : s.cfgok = false) (r : Fin 16) (v : Word) :
    regWrite r v s = .next s := by
  have hoff : ∀ t, onConfigured s t = s := fun _ => onConfigured_of_false hcfg
  rcases regWrite_cases r v s with ⟨-, h⟩ | ⟨-, h⟩ | ⟨-, h⟩ | ⟨-, h⟩ | ⟨-, h⟩ | ⟨-, -, -, -, -, h⟩
  · rcases writeCmd_cases v s with ⟨i, -, hw⟩ | ⟨_, -, hw⟩
    · rw [h, hw, exec_of_not_cfgok hcfg]
    · rw [h, hw, illegalCommand, hoff]
  · rw [h, hoff]
  · rw [h, pushM, hoff]
  · rw [h, pushK, hoff]
  · rw [h, hoff]
  · exact h

/-! ### With `CFGOK = 1` a write has an effect of the list -/

theorem effect_of_dataCommand {s : State} {i : Instr} (hcfg : s.cfgok = true)
    (hi : i ∈ dataCommands) :
    Effect s (.write 0 (encode i)) (dataCommand (readsOf i) (dataFunctionAt i s) s) := by
  rcases dataCommand_cases (readsOf i) (dataFunctionAt i s) s with ⟨hoff, -⟩ | ⟨-, -, h⟩ |
    ⟨e, -, -, hr, h⟩ | ⟨_, -, -, -, -, h⟩ | ⟨r, -, -, -, hfit, h⟩
  · simp [hcfg] at hoff
  · rw [h]; exact .flagged i hi
  · rw [h]
    cases e with
    | invsym j inK => exact .invsym i hi j inK hr
    | invkey => exact .invkey i hi
    | badbit j => exact .badbit i hi j hr
  · rw [h]; exact .tooLong i hi
  · rw [h]; exact .commit i hi r hfit

theorem exec_effect {s : State} (hcfg : s.cfgok = true) (i : Instr) :
    ∃ t, exec i s = .next t ∧ Effect s (.write 0 (encode i)) t := by
  by_cases hi : i ∈ dataCommands
  · exact ⟨_, exec_eq_dataCommand_dataFunctionAt hi s, effect_of_dataCommand hcfg hi⟩
  cases i with
  | clr => exact ⟨_, exec_clr hcfg, .clr⟩
  | clrm => exact ⟨_, exec_clrm hcfg, .clrm⟩
  | clrk => exact ⟨_, exec_clrk hcfg, .clrk⟩
  | qtom =>
    refine ⟨_, exec_qtom hcfg, ?_⟩
    split
    · exact .qtomFull
    · next hfit => exact .qtom (Nat.not_lt.mp hfit)
  | qtok =>
    refine ⟨_, exec_qtok hcfg, ?_⟩
    split
    · exact .qtokFull
    · next hfit => exact .qtok (Nat.not_lt.mp hfit)
  | _ => exact absurd (by decide) hi

/-- A write leaves the state as it is or has an effect of the list. -/
theorem regWrite_effect {s : State} (hcfg : s.cfgok = true) (r : Fin 16) (v : Word) :
    ∃ t, regWrite r v s = .next t ∧ (t = s ∨ Effect s (.write r v) t) := by
  rcases regWrite_cases r v s with ⟨rfl, h⟩ | ⟨rfl, h⟩ | ⟨rfl, h⟩ | ⟨rfl, h⟩ | ⟨rfl, h⟩ |
    ⟨-, -, -, -, -, h⟩
  · rcases writeCmd_cases v s with ⟨i, hdec, hw⟩ | ⟨_, -, hw⟩
    · obtain rfl := (decodeAndEncodeAgree v i).mp hdec
      obtain ⟨t, ht, heff⟩ := exec_effect hcfg i
      exact ⟨t, by rw [h, hw, ht], .inr heff⟩
    · exact ⟨_, by rw [h, hw, illegalCommand, onConfigured_of_true hcfg], .inr (.illegal v)⟩
  · exact ⟨_, by rw [h, onConfigured_of_true hcfg], .inr (.narg v)⟩
  · rcases pushM_cases v s with ⟨hoff, -⟩ | ⟨-, -, hroom, hp⟩ | ⟨-, -, hp⟩
    · simp [hcfg] at hoff
    · exact ⟨_, by rw [h, hp], .inr (.pushM v hroom)⟩
    · exact ⟨_, by rw [h, hp], .inr (.refuseM v)⟩
  · rcases pushK_cases v s with ⟨hoff, -⟩ | ⟨-, -, hroom, hp⟩ | ⟨-, -, hp⟩
    · simp [hcfg] at hoff
    · exact ⟨_, by rw [h, hp], .inr (.pushK v hroom)⟩
    · exact ⟨_, by rw [h, hp], .inr (.refuseK v)⟩
  · exact ⟨_, by rw [h, onConfigured_of_true hcfg], .inr (.qptr v)⟩
  · exact ⟨s, h, .inl rfl⟩

/-- Everything the performance of an event can make of a state: nothing but the host's side of the
port moves, or the event has an effect of the list, or it is a reset. -/
theorem step_effect {s t : State} {e : Event} {rest : List Event} (hin : s.inbox = e :: rest)
    (hstep : step s = .next t) :
    (∃ a, t = taken s rest a) ∨
    (s.cfgok = true ∧ Effect (taken s rest none) e t) ∨
    (∃ p, e = .reset p ∧ p.wf = true ∧ t = taken (State.resetWith p) rest none) := by
  cases e with
  | read r =>
    rw [step_read hin, Host.Outcome.next.injEq] at hstep
    exact .inl ⟨_, hstep.symm⟩
  | write r v =>
    rw [step_write hin] at hstep
    cases hcfg : s.cfgok with
    | false =>
      rw [regWrite_of_not_cfgok (s := taken s rest none) hcfg, Host.Outcome.next.injEq] at hstep
      exact .inl ⟨_, hstep.symm⟩
    | true =>
      obtain ⟨u, hu, heff⟩ := regWrite_effect (s := taken s rest none) hcfg r v
      rw [hu, Host.Outcome.next.injEq] at hstep
      subst hstep
      exact heff.elim (fun h => .inl ⟨_, h⟩) fun h => .inr (.inl ⟨rfl, h⟩)
  | reset p =>
    rcases step_cases s with ⟨h, -⟩ | ⟨_, _, h, -⟩ | ⟨_, _, _, h, -⟩ | ⟨p', rest', h, hwf, hs⟩ |
      ⟨_, _, -, -, hs⟩
    · simp [hin] at h
    · simp [hin] at h
    · simp [hin] at h
    · obtain ⟨rfl, rfl⟩ : p = p' ∧ rest = rest' := by simpa [hin] using h
      rw [hs, Host.Outcome.next.injEq] at hstep
      exact .inr (.inr ⟨p, rfl, hwf, hstep.symm⟩)
    · simp [hs] at hstep

/-- A step with no event to perform waits (10_state.md R27). -/
theorem step_of_inbox_nil {s : State} (hin : s.inbox = []) : step s = .next s := by
  simp only [step, serve, hin]

end Sys2Proof.Proofs

/-! The frames (spec/10_state.md sections 2 to 4, 70_reset_and_hazards.md section 3): which events
change which part of the state. -/

namespace Sys2Proof.Proofs

open Sys2Proof Sys2Proof.Machine Sys2Proof.Claims

/-! ### One lemma per part of the state, over the list of effects -/

section Frames

variable {s t : State} {e : Event} (h : Effect s e t)

include h

theorem Effect.config :
    t.cfgok = s.cfgok ∧ t.alpha = s.alpha ∧ t.pad = s.pad ∧ t.params = s.params := by
  cases h <;> exact ⟨rfl, rfl, rfl, rfl⟩

theorem Effect.m_frame :
    t.m = s.m ∨ (∃ v, e = .write 7 v) ∨ IsCommand e [.clr, .clrm, .qtom] := by
  cases h with
  | pushM v => exact .inr (.inl ⟨v, rfl⟩)
  | clr => exact .inr (.inr ⟨.clr, by decide, rfl⟩)
  | clrm => exact .inr (.inr ⟨.clrm, by decide, rfl⟩)
  | qtom => exact .inr (.inr ⟨.qtom, by decide, rfl⟩)
  | _ => exact .inl rfl

theorem Effect.k_frame :
    t.k = s.k ∨ (∃ v, e = .write 8 v) ∨ IsCommand e [.clr, .clrk, .qtok] := by
  cases h with
  | pushK v => exact .inr (.inl ⟨v, rfl⟩)
  | clr => exact .inr (.inr ⟨.clr, by decide, rfl⟩)
  | clrk => exact .inr (.inr ⟨.clrk, by decide, rfl⟩)
  | qtok => exact .inr (.inr ⟨.qtok, by decide, rfl⟩)
  | _ => exact .inl rfl

theorem Effect.q_frame :
    (t.q = s.q ∧ (t.qptr = s.qptr ∨ ∃ v, e = .write 9 v)) ∨
      IsCommand e dataCommands ∨ IsCommand e [.clr] := by
  cases h with
  | flagged i hi | invsym i hi | invkey i hi | badbit i hi | tooLong i hi | commit i hi =>
    exact .inr (.inl ⟨i, hi, rfl⟩)
  | clr => exact .inr (.inr ⟨.clr, by decide, rfl⟩)
  | qptr v => exact .inl ⟨rfl, .inr ⟨v, rfl⟩⟩
  | _ => exact .inl ⟨rfl, .inl rfl⟩

theorem Effect.narg_frame : t.narg = s.narg ∨ (∃ v, e = .write 3 v) ∨ IsCommand e [.clr] := by
  cases h with
  | narg v => exact .inr (.inl ⟨v, rfl⟩)
  | clr => exact .inr (.inr ⟨.clr, by decide, rfl⟩)
  | _ => exact .inl rfl

theorem Effect.mperr_frame :
    t.mperr = s.mperr ∨ (t.mperr = true ∧ ∃ v, e = .write 7 v) ∨
      (t.mperr = false ∧ IsCommand e [.clr, .clrm, .qtom]) := by
  cases h with
  | refuseM v => exact .inr (.inl ⟨rfl, v, rfl⟩)
  | clr => exact .inr (.inr ⟨rfl, .clr, by decide, rfl⟩)
  | clrm => exact .inr (.inr ⟨rfl, .clrm, by decide, rfl⟩)
  | qtom => exact .inr (.inr ⟨rfl, .qtom, by decide, rfl⟩)
  | _ => exact .inl rfl

theorem Effect.kperr_frame :
    t.kperr = s.kperr ∨ (t.kperr = true ∧ ∃ v, e = .write 8 v) ∨
      (t.kperr = false ∧ IsCommand e [.clr, .clrk, .qtok]) := by
  cases h with
  | refuseK v => exact .inr (.inl ⟨rfl, v, rfl⟩)
  | clr => exact .inr (.inr ⟨rfl, .clr, by decide, rfl⟩)
  | clrk => exact .inr (.inr ⟨rfl, .clrk, by decide, rfl⟩)
  | qtok => exact .inr (.inr ⟨rfl, .qtok, by decide, rfl⟩)
  | _ => exact .inl rfl

theorem Effect.error_frame :
    (t.err = s.err ∧ t.errk = s.errk ∧ t.erridx = s.erridx) ∨ ∃ w, e = .write 0 w := by
  cases h with
  | narg | qptr | pushM | refuseM | pushK | refuseK => exact .inl ⟨rfl, rfl, rfl⟩
  | _ => exact .inr ⟨_, rfl⟩

end Frames

/-! ### The obligations -/

/-- Settles O18: of the three things a step can do, only an effect of the list and a reset touch M
and K. -/
theorem whatChangesTheOperandBuffers : Obligations.WhatChangesTheOperandBuffers := by
  intro s t e rest hin hstep
  rcases step_effect hin hstep with ⟨a, rfl⟩ | ⟨-, heff⟩ | ⟨p, rfl, -, -⟩
  · exact ⟨absurd rfl, absurd rfl⟩
  · exact ⟨fun hm => (heff.m_frame.resolve_left hm).imp_right .inl,
      fun hk => (heff.k_frame.resolve_left hk).imp_right .inl⟩
  · exact ⟨fun _ => .inr (.inr ⟨p, rfl⟩), fun _ => .inr (.inr ⟨p, rfl⟩)⟩

/-- With a configuration every data command leaves `QPTR` 0, and an empty Q with an error (R78). -/
theorem dataCommand_result {s : State} (rd : Reads) (r : Except FnError Cells)
    (hcfg : s.cfgok = true) :
    (dataCommand rd r s).qptr = 0#32 ∧
      ((dataCommand rd r s).err ≠ 0#4 → (dataCommand rd r s).q = []) := by
  rcases dataCommand_cases rd r s with ⟨hoff, -⟩ | ⟨-, -, h⟩ | ⟨e, -, -, -, h⟩ |
    ⟨_, -, -, -, -, h⟩ | ⟨_, -, -, -, -, h⟩
  · simp [hcfg] at hoff
  · rw [h]; exact ⟨rfl, fun _ => rfl⟩
  · rw [h]; cases e <;> exact ⟨rfl, fun _ => rfl⟩
  · rw [h]; exact ⟨rfl, fun _ => rfl⟩
  · rw [h]; exact ⟨rfl, absurd rfl⟩

/-- Settles O19: the frame of Q and `QPTR`, and the outcomes of R78. -/
theorem whatChangesTheResultBuffer : Obligations.WhatChangesTheResultBuffer := by
  refine ⟨fun s t e rest hin hstep => ?frame, fun s hcfg i hi => ?outcome⟩
  case frame =>
    rcases step_effect hin hstep with ⟨a, rfl⟩ | ⟨-, heff⟩ | ⟨p, rfl, -, -⟩
    · exact ⟨absurd rfl, absurd rfl⟩
    · rcases heff.q_frame with ⟨hq, hqptr⟩ | hdata | hclr
      · exact ⟨absurd hq, fun hne => .inl (hqptr.resolve_left hne)⟩
      · exact ⟨fun _ => .inl hdata, fun _ => .inr (.inl hdata)⟩
      · exact ⟨fun _ => .inr (.inl hclr), fun _ => .inr (.inr (.inl hclr))⟩
    · exact ⟨fun _ => .inr (.inr ⟨p, rfl⟩), fun _ => .inr (.inr (.inr ⟨p, rfl⟩))⟩
  case outcome =>
    obtain ⟨r, hexec⟩ := exec_eq_dataCommand hi s
    obtain ⟨hqptr, hq⟩ := dataCommand_result (readsOf i) r hcfg
    exact ⟨_, hexec, hqptr, hq⟩

/-- A flag that keeps its value, or is set with `p`, or is cleared with `q`. -/
theorem flag_changes {b b' : Bool} {p q : Prop}
    (h : b' = b ∨ (b' = true ∧ p) ∨ (b' = false ∧ q)) :
    (b = false → b' = true → p) ∧ (b = true → b' = false → q) := by
  rcases h with rfl | ⟨rfl, hp⟩ | ⟨rfl, hq⟩
  · exact ⟨fun hf ht => by simp [hf] at ht, fun ht hf => by simp [ht] at hf⟩
  · simp [hp]
  · simp [hq]

/-- Settles O20: the frames of `NARG`, the push flags and the error registers; a reset leaves the
flags clear. -/
theorem whatChangesTheFlagsAndNarg : Obligations.WhatChangesTheFlagsAndNarg := by
  intro s t e rest hin hstep
  rcases step_effect hin hstep with ⟨a, rfl⟩ | ⟨-, heff⟩ | ⟨p, rfl, -, rfl⟩
  case inl =>
    obtain ⟨hmset, hmclear⟩ := flag_changes (b := s.mperr) (.inl rfl)
    obtain ⟨hkset, hkclear⟩ := flag_changes (b := s.kperr) (.inl rfl)
    exact ⟨absurd rfl, hmset, hmclear, hkset, hkclear,
      fun hne => hne.elim (absurd rfl) (·.elim (absurd rfl) (absurd rfl))⟩
  case inr.inl =>
    obtain ⟨hmset, hmclear⟩ := flag_changes heff.mperr_frame
    obtain ⟨hkset, hkclear⟩ := flag_changes heff.kperr_frame
    refine ⟨fun hne => (heff.narg_frame.resolve_left hne).imp_right .inl, hmset,
      fun ht hf => .inl (hmclear ht hf), hkset, fun ht hf => .inl (hkclear ht hf), fun hne => ?_⟩
    rcases heff.error_frame with ⟨herr, herrk, herridx⟩ | hcmd
    · exact hne.elim (absurd herr) (·.elim (absurd herrk) (absurd herridx))
    · exact .inl hcmd
  case inr.inr =>
    have hreset : IsReset (.reset p) := ⟨p, rfl⟩
    exact ⟨fun _ => .inr (.inr hreset), fun _ => Bool.noConfusion, fun _ _ => .inr hreset,
      fun _ => Bool.noConfusion, fun _ _ => .inr hreset, fun _ => .inr hreset⟩

/-- Settles O16: no effect of the list touches the configuration. -/
theorem onlyAResetChangesTheConfiguration : Obligations.OnlyAResetChangesTheConfiguration := by
  intro s t hstep hnoReset
  cases hin : s.inbox with
  | nil =>
    rw [step_of_inbox_nil hin, Host.Outcome.next.injEq] at hstep
    subst hstep
    exact ⟨rfl, rfl, rfl, rfl⟩
  | cons e rest =>
    rcases step_effect hin hstep with ⟨a, rfl⟩ | ⟨-, heff⟩ | ⟨p, rfl, -, -⟩
    · exact ⟨rfl, rfl, rfl, rfl⟩
    · exact heff.config
    · exact absurd hin (hnoReset p rest)

/-- A step stops at a reset with parameters out of range, and nowhere else. -/
theorem canStep_or_fault (s : State) :
    (CanStep s ∧ ∀ p rest, s.inbox = .reset p :: rest → p.wf = true) ∨
    (∃ p rest, s.inbox = .reset p :: rest ∧ p.wf = false ∧
      step s = .fault .capacityOutOfRange) := by
  rcases step_cases s with ⟨hin, hs⟩ | ⟨r, rest, hin, hs⟩ | ⟨r, v, rest, hin, hs⟩ |
    ⟨p, rest, hin, hwf, hs⟩ | ⟨p, rest, hin, hwf, hs⟩
  · exact .inl ⟨⟨_, hs⟩, fun p rest h => by simp [hin] at h⟩
  · exact .inl ⟨⟨_, hs⟩, fun p rest h => by simp [hin] at h⟩
  · obtain ⟨t, ht⟩ := regWrite_next r v (s.accept rest none)
    exact .inl ⟨⟨t, hs.trans ht⟩, fun p rest h => by simp [hin] at h⟩
  · refine .inl ⟨⟨_, hs⟩, fun p' rest' h => ?_⟩
    obtain ⟨rfl, -⟩ : p = p' ∧ rest = rest' := by simpa [hin] using h
    exact hwf
  · exact .inr ⟨p, rest, hin, hwf, hs⟩

/-- Settles O17: the one step that is not to a next state is the fault of a reset out of range. -/
theorem onlyAnExcludedCapacityStops : Obligations.OnlyAnExcludedCapacityStops := by
  intro s
  simp only [← paramsWf_iff]
  rcases canStep_or_fault s with ⟨hcan, hwf⟩ | ⟨p, rest, hin, hwf, hfault⟩
  · exact ⟨⟨fun _ => hwf, fun _ => hcan⟩, absurd hcan⟩
  · have hstuck : ¬ CanStep s := by
      rintro ⟨t, ht⟩
      simp [hfault] at ht
    refine ⟨⟨fun hcan => absurd hcan hstuck, fun h => ?_⟩, fun _ => hfault⟩
    simp [h p rest hin] at hwf

end Sys2Proof.Proofs

/-! The invariants (spec/60_exceptions.md, 10_state.md section 3): every step keeps a state sound,
and what its error registers record true. -/

namespace Sys2Proof.Proofs

open Sys2Proof Sys2Proof.Machine Sys2Proof.Claims

/-! ### A reset (10_state.md R39, 70_reset_and_hazards.md R190 to R192) -/

theorem resetWith_of_accepted {p : Params} {A : Cells} {P : Byte}
    (h : loadConfig p = some (A, P)) : (State.resetWith p).cfgok = true ∧
    (State.resetWith p).alpha = A ∧ (State.resetWith p).pad = P ∧
    (State.resetWith p).err = 0#4 := by
  simp [State.resetWith, h, errNumber]

theorem resetWith_of_rejected {p : Params} (h : loadConfig p = none) :
    (State.resetWith p).cfgok = false ∧ (State.resetWith p).err = 1#4 := by
  simp [State.resetWith, h, errNumber]

theorem resetWith_buffersFit (p : Params) : (State.resetWith p).BuffersFit :=
  ⟨Nat.zero_le _, Nat.zero_le _, Nat.zero_le _⟩

theorem resetWith_sound {p : Params} (hwf : p.wf = true) : (State.resetWith p).Sound := by
  cases hload : loadConfig p with
  | none =>
    obtain ⟨hoff, herr⟩ := resetWith_of_rejected hload
    refine ⟨hwf, ⟨rfl, rfl, rfl⟩, fun hon => ?_, resetWith_buffersFit p,
      fun _ => ⟨rfl, rfl, rfl, rfl, rfl, rfl, herr, rfl, rfl, rfl⟩, fun hon => ?_⟩
    all_goals simp [hoff] at hon
  | some c =>
    obtain ⟨hon, halpha, hpad, herr⟩ := resetWith_of_accepted (A := c.1) (P := c.2) hload
    refine ⟨hwf, ⟨rfl, rfl, rfl⟩, fun _ => ?alphabet, resetWith_buffersFit p,
      fun hoff => ?frozen, fun _ => ?row⟩
    case alphabet => exact halpha ▸ hpad ▸ loadConfig_sound hload
    case frozen => simp [hon] at hoff
    case row => rw [herr]; exact ⟨by decide, by decide, nofun, fun _ _ => rfl⟩

/-- An error that records nothing of the buffers is true of any. -/
theorem errorRecordTrue_of_err {s : State}
    (h : s.err = 0#4 ∨ s.err = 1#4 ∨ s.err = 5#4 ∨ s.err = 6#4) : s.ErrorRecordTrue := by
  rcases h with h | h | h | h <;> simp [State.ErrorRecordTrue, h]

theorem resetWith_errorRecordTrue (p : Params) : (State.resetWith p).ErrorRecordTrue := by
  cases hload : loadConfig p with
  | none =>
    exact errorRecordTrue_of_err (.inr (.inl (resetWith_of_rejected hload).2))
  | some c =>
    obtain ⟨-, -, -, herr⟩ := resetWith_of_accepted (A := c.1) (P := c.2) hload
    exact errorRecordTrue_of_err (.inl herr)

/-- Settles O13: the default parameters are in range like any others. -/
theorem resetMeetsTheInvariants : Obligations.ResetMeetsTheInvariants := by
  have hdefault : Params.default.wf = true := by decide
  exact ⟨fun p hwf => ⟨resetWith_sound hwf, resetWith_errorRecordTrue p⟩,
    resetWith_sound hdefault, resetWith_errorRecordTrue _⟩

/-! ### Soundness, over the list of effects -/

theorem Effect.buffersFit {s t : State} {e : Event} (h : Effect s e t) (hfit : s.BuffersFit) :
    t.BuffersFit := by
  obtain ⟨hm, hk, hq⟩ := hfit
  cases h with
  | pushM v hroom => exact ⟨by simpa using hroom, hk, hq⟩
  | pushK v hroom => exact ⟨hm, by simpa using hroom, hq⟩
  | flagged | invsym | invkey | badbit | tooLong => exact ⟨hm, hk, Nat.zero_le _⟩
  | commit i hi r hr => exact ⟨hm, hk, hr⟩
  | clr => exact ⟨Nat.zero_le _, Nat.zero_le _, Nat.zero_le _⟩
  | clrm => exact ⟨Nat.zero_le _, hk, hq⟩
  | clrk => exact ⟨hm, Nat.zero_le _, hq⟩
  | qtom hqm => exact ⟨hqm, hk, hq⟩
  | qtok hqk => exact ⟨hm, hqk, hq⟩
  | _ => exact ⟨hm, hk, hq⟩

theorem errNumber_toNat_le (c : ErrCode) : (errNumber c).toNat ≤ 7 := by
  cases c <;> decide

theorem errNumber_eq_one_iff {c : ErrCode} : errNumber c = 1#4 ↔ c = .config := by
  cases c <;> decide

/-- A report of a row of 60_exceptions.md R170 that a command can make. -/
theorem errorRowLegal_report {s : State} {c : ErrCode} {i : Nat} {inK : Bool} (hc : c ≠ .config)
    (hk : inK = true → c = .invsym) (hi : c ≠ .invsym → c ≠ .badbit → i = 0) :
    (s.report c i inK).ErrorRowLegal := by
  refine fun _ => ⟨errNumber_toNat_le c, mt errNumber_eq_one_iff.mp hc, fun h => by rw [hk h]; rfl,
    fun h2 h4 => ?_⟩
  rw [hi (fun h => h2 (by rw [h]; rfl)) (fun h => h4 (by rw [h]; rfl))]
  rfl

theorem Effect.errorRowLegal {s t : State} {e : Event} (h : Effect s e t)
    (hrow : s.ErrorRowLegal) : t.ErrorRowLegal := by
  cases h with
  | narg | qptr | pushM | refuseM | pushK | refuseK => exact hrow
  | invsym => exact errorRowLegal_report (by decide) (fun _ => rfl) (absurd rfl)
  | badbit => exact errorRowLegal_report (by decide) nofun (fun _ => absurd rfl)
  | _ => exact errorRowLegal_report (by decide) nofun (fun _ _ => rfl)

theorem Effect.sound {s t : State} {e : Event} (h : Effect s e t) (hcfg : s.cfgok = true)
    (hs : s.Sound) : t.Sound := by
  obtain ⟨hparams, hload, halpha, hfit, -, hrow⟩ := hs
  obtain ⟨ecfg, ealpha, epad, eparams⟩ := h.config
  have hon : t.cfgok = true := ecfg.trans hcfg
  refine ⟨?_, ?_, ?_, h.buffersFit hfit, fun hoff => ?_, h.errorRowLegal hrow⟩
  · rwa [State.ParamsInRange, eparams]
  · rwa [State.ConfigAsLoaded, ecfg, ealpha, epad, eparams]
  · rwa [State.AlphabetMeaningful, ecfg, ealpha, epad]
  · simp [hon] at hoff

/-- Settles O14: a step that performs no reset has an effect of the list or changes nothing that
soundness names. -/
theorem everyStepKeepsTheStateSound : Obligations.EveryStepKeepsTheStateSound := by
  intro s t hs hstep
  cases hin : s.inbox with
  | nil =>
    rw [step_of_inbox_nil hin, Host.Outcome.next.injEq] at hstep
    exact hstep ▸ hs
  | cons e rest =>
    rcases step_effect hin hstep with ⟨a, rfl⟩ | ⟨hcfg, heff⟩ | ⟨p, -, hwf, rfl⟩
    · exact hs
    · exact heff.sound hcfg hs
    · exact resetWith_sound hwf

end Sys2Proof.Proofs

/-! What the error registers record (spec/60_exceptions.md R176, R177): each function of the codec
and the ciphers raises its error at a cell that is bad. -/

namespace Sys2Proof.Proofs

open Sys2Proof Sys2Proof.Machine Sys2Proof.Claims

/-! ### The cell a raised error names -/

/-- The error is `INVSYM` at a cell of `S` that is no symbol. -/
def BadSymbol (A S : Cells) (inK : Bool) (e : FnError) : Prop :=
  ∃ j c, S[j]? = some c ∧ c ∉ A ∧ e = .invsym j inK

/-- The error names a cell of its buffer that is bad, or is `INVKEY`, which names none. -/
def NamesBadCell (A m k : Cells) (e : FnError) : Prop :=
  BadSymbol A m false e ∨ BadSymbol A k true e ∨ e = .invkey ∨
    ∃ j c, m[j]? = some c ∧ ¬ BitCell c ∧ e = .badbit j

/-- A sequence has a first cell that fails a test, or none that does. -/
theorem forall_good_or_firstBad (good : Byte → Prop) (S : Cells) :
    (∀ c ∈ S, good c) ∨ ∃ i c, FirstBad S good i c := by
  induction S with
  | nil => exact .inl nofun
  | cons c cs ih =>
    by_cases hc : good c
    · rcases ih with hall | ⟨i, d, hd, hbad, hbefore⟩
      · exact .inl (List.forall_mem_cons.mpr ⟨hc, hall⟩)
      · exact .inr ⟨i + 1, d, hd, hbad, List.forall_mem_cons.mpr ⟨hc, hbefore⟩⟩
    · exact .inr ⟨0, c, rfl, hc, nofun⟩

theorem badSymbol_of_firstBad {A S : Cells} {inK : Bool} {j : Nat} {c : Byte}
    (h : FirstBad S (· ∈ A) j c) : BadSymbol A S inK (.invsym j inK) :=
  ⟨j, c, h.1, h.2.1, rfl⟩

/-- A sequence of symbols is its indices, mapped back. -/
theorem exists_eq_map_sym {A S : Cells} {P : Byte} (hA : AlphabetOk A P) (h : ∀ c ∈ S, c ∈ A) :
    ∃ gs : List Idx, S = gs.map (sym A) := by
  obtain ⟨gs, hgs⟩ := scan_lookup_ok_of_mem (inK := false) (i := 0) h
  exact ⟨gs, eq_map_sym_of_scan hA.1 hA.2.1 hgs⟩

theorem indices_map_sym {A : Cells} (hl : A.length = 64) (gs : List Idx) :
    Indices A (gs.map (sym A)) gs := by
  rw [Indices, List.map_map]
  exact List.map_congr_left fun g _ => sym_eq_getElem hl g

theorem eq_error_of_map {α β : Type} {f : α → β} {x : Except FnError α} {e : FnError}
    (h : x.map f = .error e) : x = .error e := by
  cases x with
  | ok a => cases h
  | error e' => cases h; rfl

/-! ### One lemma per function -/

section Raised

variable {A : Cells} {P : Byte} {m k : Cells} {e : FnError}

theorem namesBadCell_of_fromCells (h : fromCells m = .error e) : NamesBadCell A m k e := by
  obtain ⟨j, c, hc, hc0, hc1, rfl, -⟩ := fromCells_eq_error_iff.mp h
  exact .inr (.inr (.inr ⟨j, c, hc, not_or.mpr ⟨hc0, hc1⟩, rfl⟩))

theorem badSymbol_of_encodedToBits (h : encodedToBits A P m = .error e) :
    BadSymbol A m false e := by
  unfold encodedToBits at h
  split at h
  · next e' hscan =>
    obtain rfl : e' = e := by simpa using h
    obtain ⟨j, c, hc, hsym, rfl, -⟩ := scan_lookup_error_iff.mp hscan
    exact ⟨j, c, strip_getElem? hc, hsym, rfl⟩
  · cases h

theorem badSymbol_of_decodeText (h : decodeText A P m = .error e) : BadSymbol A m false e := by
  unfold decodeText at h
  split at h
  · next e' hbits =>
    obtain rfl : e' = e := by simpa using h
    exact badSymbol_of_encodedToBits hbits
  · cases h

theorem badSymbol_of_rot (h : rot A P m = .error e) : BadSymbol A m false e := by
  obtain ⟨j, c, hc, -, hsym, rfl, -⟩ := rot_eq_error_iff.mp h
  exact ⟨j, c, hc, hsym, rfl⟩

/-- The rotation makes symbols of all but the markers, so what the decoding after it rejects was a
marker before it. -/
theorem badSymbol_of_decryptRotation (hA : AlphabetOk A P) (h : decryptRotation A P m = .error e) :
    BadSymbol A m false e := by
  cases hR : rot A P m with
  | error e' =>
    rw [decryptRotation_of_rot_error hR] at h
    cases h
    exact badSymbol_of_rot hR
  | ok R =>
    rw [decryptRotation_of_rot_ok hR] at h
    obtain ⟨j, d, hd, hsym, rfl⟩ := badSymbol_of_decodeText h
    rcases rot_cell_cases hA.1 hR hd with ⟨hpad, -⟩ | ⟨-, hmem⟩
    · exact ⟨j, P, hpad, hA.2.2, rfl⟩
    · exact absurd hmem hsym

theorem invkey_of_repeatKey {n : Nat} (h : repeatKey k n = .error e) : e = .invkey := by
  unfold repeatKey at h
  split at h
  · exact (Except.error.inj h).symm
  · cases h

theorem namesBadCell_of_combineSyms {op : Idx → Idx → Idx} (hA : AlphabetOk A P)
    (h : combineSyms A op m k = .error e) : NamesBadCell A m k e := by
  by_cases hk : k = []
  · rw [hk, combineSyms_empty_key] at h
    exact .inr (.inr (.inl (Except.error.inj h).symm))
  rcases forall_good_or_firstBad (· ∈ A) k with hkey | ⟨j, c, hbad⟩
  · rcases forall_good_or_firstBad (· ∈ A) m with hmsg | ⟨j, c, hbad⟩
    · obtain ⟨gs, rfl⟩ := exists_eq_map_sym hA hmsg
      obtain ⟨ks, rfl⟩ := exists_eq_map_sym hA hkey
      rw [combineSyms_map_sym hA.1 hA.2.1 op gs ks (mt List.map_eq_nil_iff.mpr hk)] at h
      cases h
    · rw [combineSyms_of_firstBad_message hk hkey hbad] at h
      cases h
      exact .inl (badSymbol_of_firstBad hbad)
  · rw [combineSyms_of_firstBad_key hbad] at h
    cases h
    exact .inr (.inl (badSymbol_of_firstBad hbad))

theorem invkey_of_encryptAdditive (hA : AlphabetOk A P) (h : encryptAdditive A P m k = .error e) :
    e = .invkey := by
  by_cases hk : k = []
  · rw [hk, encryptAdditive_empty_key] at h
    exact (Except.error.inj h).symm
  · rw [encryptAdditive_eq hA m hk] at h
    cases h

theorem namesBadCell_of_decryptAdditive (hA : AlphabetOk A P)
    (h : decryptAdditive A P m k = .error e) : NamesBadCell A m k e := by
  by_cases hk : k = []
  · rw [hk, decryptAdditive_empty_key] at h
    exact .inr (.inr (.inl (Except.error.inj h).symm))
  rcases forall_good_or_firstBad (· ∈ A) m with hmsg | ⟨j, c, hbad⟩
  · obtain ⟨gs, rfl⟩ := exists_eq_map_sym hA hmsg
    rw [decryptAdditive_of_indices hA hk (indices_map_sym hA.1 gs)] at h
    cases h
  · rw [decryptAdditive_of_firstBad hA hk hbad] at h
    cases h
    exact .inl (badSymbol_of_firstBad hbad)

/-- Whatever a data command's function raises names a bad cell. -/
theorem namesBadCell_of_dataFunction {i : Instr} {n : Nat} (hA : AlphabetOk A P)
    (h : dataFunction i A P m k n = .error e) : NamesBadCell A m k e := by
  cases i with
  | clr | clrm | clrk | qtom | qtok | t2b | strip | pad4 | enc => cases h
  | b2t | b2e => exact namesBadCell_of_fromCells (eq_error_of_map h)
  | e2b => exact .inl (badSymbol_of_encodedToBits (eq_error_of_map h))
  | dec => exact .inl (badSymbol_of_decodeText h)
  | rots => exact .inl (badSymbol_of_rot h)
  | encrot => rw [dataFunction, encryptRotation_eq hA] at h; cases h
  | decrot => exact .inl (badSymbol_of_decryptRotation hA h)
  | repk => exact .inr (.inr (.inl (invkey_of_repeatKey h)))
  | adds | subs => exact namesBadCell_of_combineSyms hA h
  | encadd => exact .inr (.inr (.inl (invkey_of_encryptAdditive hA h)))
  | decadd => exact namesBadCell_of_decryptAdditive hA h

end Raised

/-! ### What is recorded -/

/-- A cell within the range of a capacity is recorded by its index, not by a wrapped one. -/
theorem cellSatisfies_ofNat {b : Cells} {j cap : Nat} {c : Byte} {p : Byte → Bool}
    (hc : b[j]? = some c) (hp : p c = true) (hfit : b.length ≤ cap) (hcap : cap < 2 ^ 32) :
    cellSatisfies b (BitVec.ofNat 32 j) p = true := by
  have hj : j < b.length := (List.getElem?_eq_some_iff.mp hc).1
  have hidx : (BitVec.ofNat 32 j).toNat = j := by
    rw [BitVec.toNat_ofNat]
    exact Nat.mod_eq_of_lt (by omega)
  simp [cellSatisfies, hidx, hc, hp]

theorem cellSatisfies_append {b : Cells} {i : Word} {p : Byte → Bool} (c : Byte)
    (h : cellSatisfies b i p = true) : cellSatisfies (b ++ [c]) i p = true := by
  unfold cellSatisfies at h ⊢
  cases hb : b[i.toNat]? with
  | none => simp [hb] at h
  | some d =>
    rw [List.getElem?_append_left (List.getElem?_eq_some_iff.mp hb).1, hb]
    simpa [hb] using h

theorem Effect.errorRecordTrue {s t : State} {e : Event} (h : Effect s e t)
    (hA : AlphabetOk s.alpha s.pad) (hs : s.Sound) (hrec : s.ErrorRecordTrue) :
    t.ErrorRecordTrue := by
  obtain ⟨hparams, -, -, ⟨hm, hk, -⟩, -, -⟩ := hs
  obtain ⟨⟨-, hcapM⟩, ⟨-, hcapK⟩, -⟩ := (paramsWf_iff _).mp hparams
  obtain ⟨hrecM, hrecK, hrecBit, hrecQ⟩ := hrec
  cases h with
  | narg | qptr | refuseM | refuseK => exact ⟨hrecM, hrecK, hrecBit, hrecQ⟩
  | pushM v =>
    exact ⟨fun h2 hk => cellSatisfies_append _ (hrecM h2 hk), hrecK,
      fun h4 => cellSatisfies_append _ (hrecBit h4), hrecQ⟩
  | pushK v => exact ⟨hrecM, fun h2 hk => cellSatisfies_append _ (hrecK h2 hk), hrecBit, hrecQ⟩
  | flagged | invkey => exact ⟨nofun, nofun, nofun, fun _ => rfl⟩
  | invsym i hi j inK hraise =>
    rcases namesBadCell_of_dataFunction hA hraise with ⟨_, c, hc, hsym, he⟩ | ⟨_, c, hc, hsym, he⟩ |
      he | ⟨_, _, _, _, he⟩ <;> cases he
    · exact ⟨fun _ _ => cellSatisfies_ofNat hc (decide_eq_true hsym) hm hcapM, nofun, nofun,
        fun _ => rfl⟩
    · exact ⟨nofun, fun _ _ => cellSatisfies_ofNat hc (decide_eq_true hsym) hk hcapK, nofun,
        fun _ => rfl⟩
  | badbit i hi j hraise =>
    rcases namesBadCell_of_dataFunction hA hraise with ⟨_, _, _, _, he⟩ | ⟨_, _, _, _, he⟩ |
      he | ⟨_, c, hc, hbit, he⟩ <;> cases he
    exact ⟨nofun, nofun, fun _ => cellSatisfies_ofNat hc (by simpa using hbit) hm hcapM,
      fun _ => rfl⟩
  | illegal => exact errorRecordTrue_of_err (.inr (.inr (.inr rfl)))
  | tooLong | qtomFull | qtokFull => exact errorRecordTrue_of_err (.inr (.inr (.inl rfl)))
  | _ => exact errorRecordTrue_of_err (.inl rfl)

/-- Settles O15: with a configuration the Alphabet is one, and a raised error names a bad cell;
pushes append behind it, and whatever empties its buffer clears the error. -/
theorem everyStepKeepsTheErrorRecordTrue : Obligations.EveryStepKeepsTheErrorRecordTrue := by
  intro s t hs hrec hstep
  cases hin : s.inbox with
  | nil =>
    rw [step_of_inbox_nil hin, Host.Outcome.next.injEq] at hstep
    exact hstep ▸ hrec
  | cons e rest =>
    have ⟨_, _, halpha, _⟩ := hs
    rcases step_effect hin hstep with ⟨a, rfl⟩ | ⟨hcfg, heff⟩ | ⟨p, -, -, rfl⟩
    · exact hrec
    · exact heff.errorRecordTrue (halpha hcfg) hs hrec
    · exact resetWith_errorRecordTrue p

end Sys2Proof.Proofs

/-! Runs at the port (spec/20_memory.md section 1, 70_reset_and_hazards.md section 1): register
writes, the FAILED state, loading a message, reading a result, and the reset. -/

namespace Sys2Proof.Proofs

open Sys2Proof Sys2Proof.Machine Sys2Proof.Claims

/-! ### Register writes -/

/-- A write to a register that is read-only or reserved is ignored (20_memory.md R52). -/
theorem regWrite_ignored {r : Fin 16} (v : Word) (s : State) (h0 : r ≠ 0) (h3 : r ≠ 3) (h7 : r ≠ 7)
    (h8 : r ≠ 8) (h9 : r ≠ 9) : regWrite r v s = .next s := by
  rcases regWrite_cases r v s with ⟨h, -⟩ | ⟨h, -⟩ | ⟨h, -⟩ | ⟨h, -⟩ | ⟨h, -⟩ | ⟨-, -, -, -, -, h⟩
  · exact absurd h h0
  · exact absurd h h3
  · exact absurd h h7
  · exact absurd h h8
  · exact absurd h h9
  · exact h

theorem regWrite_narg {s : State} (hcfg : s.cfgok = true) (v : Word) :
    regWrite 3 v s = .next { s with narg := v } :=
  congrArg _ (onConfigured_of_true hcfg)

theorem regWrite_qptr {s : State} (hcfg : s.cfgok = true) (v : Word) :
    regWrite 9 v s = .next { s with qptr := v } :=
  congrArg _ (onConfigured_of_true hcfg)

/-- Settles O7: the step is the write, and each register's write is known. -/
theorem otherRegisterWrites : Obligations.OtherRegisterWrites := by
  intro s r v rest hcfg hin
  have hcfg' : (taken s rest none).cfgok = true := hcfg
  rw [step_write hin]
  refine ⟨?narg, ?qptr, fun h0 h3 h7 h8 h9 => regWrite_ignored v _ h0 h3 h7 h8 h9⟩
  case narg => rintro rfl; exact regWrite_narg hcfg' v
  case qptr => rintro rfl; exact regWrite_qptr hcfg' v

/-- Settles O8: without a configuration no write has an effect, and `STATUS` reads as fixed. -/
theorem failedStateIgnoresEverything : Obligations.FailedStateIgnoresEverything := by
  refine ⟨fun p hload => ⟨(resetWith_of_rejected hload).1, rfl, rfl, rfl⟩,
    fun s e rest hcfg hin => ⟨?write, ?status, ?other⟩, fun s i hcfg => exec_of_not_cfgok hcfg i⟩
  case write =>
    rintro r v rfl
    have hcfg' : (taken s rest none).cfgok = false := hcfg
    rw [step_write hin, regWrite_of_not_cfgok hcfg']
  case status => rintro rfl; rw [step_read hin, regRead_failed_status hcfg]
  case other => rintro r hr rfl; rw [step_read hin, regRead_failed_of_ne hcfg hr]

/-! ### Runs of several steps -/

theorem runFor_succ_of_step {n : Nat} {s t : State} (h : step s = .next t) :
    runFor (n + 1) s = runFor n t := by
  rw [runFor, h]

/-- Settles O10: the read is answered from the state in which `QPTR` holds the word written. -/
theorem pointerThenDataReadsTheResult : Obligations.PointerThenDataReadsTheResult := by
  intro s i c rest hcfg hc hin
  have hcfg' : (taken s (.read 10 :: rest) none).cfgok = true := hcfg
  have hptr : step s = .next ((taken s (.read 10 :: rest) none).setQptr i) := by
    rw [step_write hin, regWrite_qptr hcfg']
    rfl
  have hdata : regRead ((taken s (.read 10 :: rest) none).setQptr i) 10 = c.setWidth 32 :=
    (regRead_qdata (s := (taken s _ none).setQptr i) hcfg).trans (qdataView_of_getElem? hc)
  rw [runFor_succ_of_step hptr, runFor_succ_of_step (step_read rfl), hdata]
  rfl

/-- The pushes that carry the cells of `S` to M, one by one. -/
def pushesM (S : Cells) : List Event := S.map fun c => .write 7 (c.setWidth 32)

/-- The state once the cells of `S` have been pushed into M: those that fit are appended, and one
that does not fit sets `MPERR` (10_state.md R31). -/
def pushedM (s : State) (S : Cells) (rest : List Event) : State :=
  { s with
    m := (s.m ++ S).take s.params.capM
    mperr := s.mperr || decide (s.params.capM < (s.m ++ S).length)
    inbox := rest }

theorem pushM_cell {s : State} (hcfg : s.cfgok = true) (hfit : s.m.length ≤ s.params.capM)
    (c : Byte) : pushM (c.setWidth 32) s = pushedM s [c] s.inbox := by
  have hv : (c.setWidth 32).toNat = c.toNat := BitVec.toNat_setWidth_of_le (by decide)
  by_cases hroom : s.m.length < s.params.capM
  · rw [pushM_append hcfg hv hroom]
    simp [pushedM, List.take_of_length_le, Nat.succ_le_of_lt hroom, Nat.not_le.mpr hroom]
  · rw [pushM_refused hcfg (.inr (Nat.not_lt.mp hroom))]
    have hfull : s.params.capM = s.m.length := by omega
    simp [pushedM, hfull]

theorem pushedM_pushedM (s : State) (S T : Cells) (rest rest' : List Event) :
    pushedM (pushedM s S rest) T rest' = pushedM s (S ++ T) rest' := by
  have hm : ((s.m ++ S).take s.params.capM ++ T).take s.params.capM =
      (s.m ++ (S ++ T)).take s.params.capM := by
    rw [← List.append_assoc, List.take_append, List.take_append (l₁ := s.m ++ S), List.take_take,
      Nat.min_self, List.length_take]
    congr 2
    omega
  have hflag : (decide (s.params.capM < (s.m ++ S).length) ||
      decide (s.params.capM < ((s.m ++ S).take s.params.capM ++ T).length)) =
      decide (s.params.capM < (s.m ++ (S ++ T)).length) := by
    rw [← Bool.decide_or, decide_eq_decide]
    simp only [List.length_append, List.length_take]
    omega
  unfold pushedM
  congr 1
  exact (Bool.or_assoc ..).trans (congrArg _ hflag)

theorem pushedM_nil {s : State} (hfit : s.m.length ≤ s.params.capM) :
    pushedM s [] s.inbox = s := by
  simp [pushedM, List.take_of_length_le hfit, Nat.not_lt.mpr hfit]

/-- Pushing cell by cell. -/
theorem runFor_pushesM (S : Cells) (rest : List Event) (s : State) (hcfg : s.cfgok = true)
    (hreply : s.reply = none) (hfit : s.m.length ≤ s.params.capM)
    (hin : s.inbox = pushesM S ++ rest) : runFor S.length s = .next (pushedM s S rest) := by
  induction S generalizing s with
  | nil =>
    obtain rfl : s.inbox = rest := hin
    rw [pushedM_nil hfit]
    rfl
  | cons c cs ih =>
    have hpush := pushM_cell (s := taken s (pushesM cs ++ rest) none) hcfg hfit c
    have hstep : step s = .next (pushedM s [c] (pushesM cs ++ rest)) := by
      rw [show step s = _ from step_write_mpush hin]
      refine congrArg _ (hpush.trans ?_)
      simp [pushedM, taken, hreply]
    rw [List.length_cons, runFor_succ_of_step hstep, ih (pushedM s [c] _) hcfg hreply
      (List.length_take_le _ _) rfl, pushedM_pushedM]
    rfl

/-- Settles O9: after `CLRM` the pushes begin with M empty and its flag clear. -/
theorem clearThenPushesLoadTheMessage : Obligations.ClearThenPushesLoadTheMessage := by
  intro s S rest hcfg hin
  have hcfg' : (taken s (pushesM S ++ rest) none).cfgok = true := hcfg
  have hclear : step s = .next ((taken s (pushesM S ++ rest) none).loadM []).succeed := by
    rw [step_write_cmd hin, writeCmd, decode_encode]
    exact exec_clrm hcfg'
  rw [runFor_succ_of_step hclear]
  exact runFor_pushesM S rest ((taken s (pushesM S ++ rest) none).loadM []).succeed hcfg rfl
    (Nat.zero_le _) rfl

/-! ### The reset -/

/-- Settles O11: `S` is the repaired sequence, and the load tests it for those three conditions. -/
theorem resetLoadsTheConfiguration : Obligations.ResetLoadsTheConfiguration := by
  intro s p rest S hin hwf hrepair hkeep
  have hS : repairSyms p.cfgSyms = S := by
    unfold repairSyms
    split
    · next h => exact (hrepair h).symm
    · next h => exact (hkeep h).symm
  have hstep : step s = .next (taken (State.resetWith p) rest none) := by
    simp only [step, serve, hin, performReset, hwf, if_true, accept_eq_taken]
  refine ⟨_, hstep, rfl, rfl, rfl, rfl, rfl, rfl, rfl, rfl, rfl, rfl, rfl, fun hok => ?accepted,
    fun hbad => ?rejected⟩
  case accepted =>
    have hload : loadConfig p = some (S, p.cfgPad) := by
      obtain ⟨hlen, hnodup, hpad⟩ := hok
      simp [loadConfig, configAccepted, hS, hlen, hnodup, hpad]
    obtain ⟨hon, halpha, hpad, herr⟩ := resetWith_of_accepted hload
    refine ⟨hon, halpha, hpad, herr, ?_⟩
    rw [regRead_status (s := taken (State.resetWith p) rest none) hon]
    change statusWord true false false false (State.resetWith p).err = _
    rw [herr]
    rfl
  case rejected =>
    have hload : loadConfig p = none := by
      simpa [loadConfig, configAccepted, hS, and_assoc] using hbad
    obtain ⟨hoff, herr⟩ := resetWith_of_rejected hload
    exact ⟨hoff, herr, regRead_failed_status hoff⟩

/-- Settles O12: the default parameters, run through the load. -/
theorem modelResetUsesTheDefaultTable : Obligations.ModelResetUsesTheDefaultTable := by
  unfold Obligations.ModelResetUsesTheDefaultTable
  decide +kernel

end Sys2Proof.Proofs

/-! What a command depends on (spec/10_state.md section 5, 20_memory.md section 1): the outcome of a
data command is a function of its operands, and a command issued twice does no more than once. -/

namespace Sys2Proof.Proofs

open Sys2Proof Sys2Proof.Machine Sys2Proof.Claims

/-! ### The operands -/

/-- A function does not depend on an operand it does not read (30_encoding.md R73). -/
theorem dataFunction_congr {i : Instr} (hi : i ∈ dataCommands) (A : Cells) (P : Byte)
    {m m' k k' : Cells} {n n' : Nat} (hm : i = .repk ∨ m = m') (hk : i ∉ keyedCommands ∨ k = k')
    (hn : i ≠ .repk ∨ n = n') : dataFunction i A P m k n = dataFunction i A P m' k' n' := by
  cases i with
  | clr | clrm | clrk | qtom | qtok => exact absurd hi (by decide)
  | repk =>
    obtain rfl := hk.resolve_left (by decide)
    obtain rfl := hn.resolve_left (by decide)
    rfl
  | adds | subs | encadd | decadd =>
    obtain rfl := hm.resolve_left (by decide)
    obtain rfl := hk.resolve_left (by decide)
    rfl
  | _ =>
    obtain rfl := hm.resolve_left (by decide)
    rfl

theorem operandFlagged_congr {i : Instr} {s s' : State} (hm : i = .repk ∨ s.mperr = s'.mperr)
    (hk : i ∉ keyedCommands ∨ s.kperr = s'.kperr) :
    operandFlagged (readsOf i) s = operandFlagged (readsOf i) s' := by
  by_cases hrepk : i = .repk
  · subst hrepk
    simp [operandFlagged, readsOf, hk.resolve_left (by decide)]
  · rcases hk with hk | hk <;> simp [operandFlagged, readsOf, hm.resolve_left hrepk, hk]

/-- The steps of R78 look at a state through the flags and `CAP_Q` only. -/
theorem dataCommand_outcome_congr {rd : Reads} {s s' : State} (r : Except FnError Cells)
    (hcfg : s.cfgok = true) (hcfg' : s'.cfgok = true) (hcap : s.params.capQ = s'.params.capQ)
    (hflag : operandFlagged rd s = operandFlagged rd s') :
    (dataCommand rd r s).q = (dataCommand rd r s').q ∧
    (dataCommand rd r s).qptr = (dataCommand rd r s').qptr ∧
    (dataCommand rd r s).err = (dataCommand rd r s').err ∧
    (dataCommand rd r s).errk = (dataCommand rd r s').errk ∧
    (dataCommand rd r s).erridx = (dataCommand rd r s').erridx := by
  cases hf : operandFlagged rd s with
  | true =>
    rw [dataCommand_flagged hcfg hf, dataCommand_flagged hcfg' (hflag ▸ hf)]
    exact ⟨rfl, rfl, rfl, rfl, rfl⟩
  | false =>
    have hf' : operandFlagged rd s' = false := hflag ▸ hf
    cases r with
    | error e =>
      rw [dataCommand_raised hcfg hf, dataCommand_raised hcfg' hf']
      cases e <;> exact ⟨rfl, rfl, rfl, rfl, rfl⟩
    | ok res =>
      by_cases hlen : s.params.capQ < res.length
      · rw [dataCommand_tooLong hcfg hf hlen, dataCommand_tooLong hcfg' hf' (hcap ▸ hlen)]
        exact ⟨rfl, rfl, rfl, rfl, rfl⟩
      · have hfit := Nat.not_lt.mp hlen
        rw [dataCommand_commits hcfg hf hfit, dataCommand_commits hcfg' hf' (hcap ▸ hfit)]
        exact ⟨rfl, rfl, rfl, rfl, rfl⟩

/-- Settles O21: the two states give the function of the command the same operands. -/
theorem dataResultsDependOnTheOperandsOnly : Obligations.DataResultsDependOnTheOperandsOnly := by
  intro s s' hcfg hcfg' halpha hpad hcap i hi hm hk hn
  have hfun : dataFunctionAt i s = dataFunctionAt i s' := by
    rw [dataFunctionAt, dataFunctionAt, halpha, hpad]
    exact dataFunction_congr hi _ _ (hm.imp_right And.left) (hk.imp_right And.left)
      (hn.imp_right (congrArg _))
  have hflag := operandFlagged_congr (hm.imp_right And.right) (hk.imp_right And.right)
  refine ⟨_, _, exec_eq_dataCommand_dataFunctionAt hi s,
    exec_eq_dataCommand_dataFunctionAt hi s', ?_⟩
  rw [hfun]
  exact dataCommand_outcome_congr _ hcfg hcfg' hcap hflag

/-! ### Commands issued twice -/

theorem dataCommand_dataCommand (rd : Reads) (r : Except FnError Cells) (s : State) :
    dataCommand rd r (dataCommand rd r s) = dataCommand rd r s := by
  rcases dataCommand_cases rd r s with ⟨-, h⟩ | ⟨hcfg, hf, h⟩ | ⟨e, hcfg, hf, rfl, h⟩ |
    ⟨res, hcfg, hf, rfl, hlen, h⟩ | ⟨res, hcfg, hf, rfl, hfit, h⟩
  · rw [h, h]
  · rw [h]
    exact dataCommand_flagged (s := s.fail .operand 0 false) hcfg hf
  · rw [h]
    cases e <;> exact dataCommand_raised (s := s.fail _ _ _) hcfg hf
  · rw [h]
    exact dataCommand_tooLong (s := s.fail .capacity 0 false) hcfg hf hlen
  · rw [h]
    exact dataCommand_commits (s := s.commit res) hcfg hf hfit

/-- A data command leaves its own operands alone (R78). -/
theorem dataFunctionAt_dataCommand (i : Instr) (rd : Reads) (r : Except FnError Cells) (s : State) :
    dataFunctionAt i (dataCommand rd r s) = dataFunctionAt i s := by
  obtain ⟨-, halpha, hpad, hm, hk, hnarg, -⟩ := dataCommand_frame rd r s
  rw [dataFunctionAt, halpha, hpad, hm, hk, hnarg, dataFunctionAt]

theorem exec_qtom_of_fits {s : State} (hcfg : s.cfgok = true) (hfit : s.q.length ≤ s.params.capM) :
    exec .qtom s = .next (s.loadM s.q).succeed := by
  rw [exec_qtom hcfg, if_neg (Nat.not_lt.mpr hfit)]

theorem exec_qtom_of_tooLong {s : State} (hcfg : s.cfgok = true)
    (hlong : s.params.capM < s.q.length) :
    exec .qtom s = .next (s.report .capacity 0 false) := by
  rw [exec_qtom hcfg, if_pos hlong]

theorem exec_qtok_of_tooLong {s : State} (hcfg : s.cfgok = true)
    (hlong : s.params.capK < s.q.length) :
    exec .qtok s = .next (s.report .capacity 0 false) := by
  rw [exec_qtok hcfg, if_pos hlong]

/-- Settles O22: a data command evaluates its function on the same operands again, and a copy or a
clear made twice writes the same cells. -/
theorem commandsAreIdempotent : Obligations.CommandsAreIdempotent := by
  intro i s
  by_cases hi : i ∈ dataCommands
  · refine ⟨_, exec_eq_dataCommand_dataFunctionAt hi s, ?_⟩
    rw [exec_eq_dataCommand_dataFunctionAt hi, dataFunctionAt_dataCommand, dataCommand_dataCommand]
  cases hcfg : s.cfgok with
  | false => exact ⟨s, exec_of_not_cfgok hcfg i, exec_of_not_cfgok hcfg i⟩
  | true =>
    cases i with
    | clr => exact ⟨_, exec_clr hcfg, exec_clr (s := State.commit _ _) hcfg⟩
    | clrm => exact ⟨_, exec_clrm hcfg, exec_clrm (s := State.succeed _) hcfg⟩
    | clrk => exact ⟨_, exec_clrk hcfg, exec_clrk (s := State.succeed _) hcfg⟩
    | qtom =>
      by_cases hlong : s.params.capM < s.q.length
      · exact ⟨_, exec_qtom_of_tooLong hcfg hlong,
          exec_qtom_of_tooLong (s := s.report .capacity 0 false) hcfg hlong⟩
      · have hfit := Nat.not_lt.mp hlong
        exact ⟨_, exec_qtom_of_fits hcfg hfit,
          exec_qtom_of_fits (s := (s.loadM s.q).succeed) hcfg hfit⟩
    | qtok =>
      by_cases hlong : s.params.capK < s.q.length
      · exact ⟨_, exec_qtok_of_tooLong hcfg hlong,
          exec_qtok_of_tooLong (s := s.report .capacity 0 false) hcfg hlong⟩
      · have hfit := Nat.not_lt.mp hlong
        exact ⟨_, exec_qtok_of_fits hcfg hfit,
          exec_qtok_of_fits (s := (s.loadK s.q).succeed) hcfg hfit⟩
    | _ => exact absurd (by decide) hi

end Sys2Proof.Proofs

/-! The laws of the codec and of the ciphers (spec/40_bit_codec.md, 41_rotation.md and
42_additive.md, section 2): what undoes what, and the lengths. -/

namespace Sys2Proof.Proofs

open Sys2Proof Sys2Proof.Machine Sys2Proof.Claims

/-! ### Encoding and decoding (40_bit_codec.md section 2) -/

section Codec

variable {A : Cells} {P : Byte}

/-- The groups of a text hold its bits and fewer than six more. -/
theorem bitsToText_groupsOf_textToBits (T : Cells) :
    bitsToText ((groupsOf (textToBits T)).flatMap bits6) = T := by
  have hb := groupCount_bounds (textToBits T).length
  rw [groupsOf_flatMap_bits6]
  exact bitsToText_textToBits_append T (by rw [List.length_replicate]; omega)

theorem decodeText_encodeText (hA : AlphabetOk A P) (T : Cells) :
    decodeText A P (encodeText A P T) = .ok T := by
  rw [decodeText_of_strip hA (strip_encodeText hA T), bitsToText_groupsOf_textToBits]

theorem strip_strip (P : Byte) (E : Cells) : strip P (strip P E) = strip P E :=
  strip_eq_self (strip_spec P E).2

theorem strip_length_add_trailingRun (P : Byte) (E : Cells) :
    (strip P E).length + trailingRun P E = E.length := by
  have h := congrArg List.length (strip_spec P E).1
  rw [List.length_append, List.length_replicate] at h
  exact h.symm

theorem trailingRun_append_replicate {P : Byte} {S : Cells} {n : Nat} (h : S.getLast? ≠ some P) :
    trailingRun P (S ++ List.replicate n P) = n := by
  have hlen := strip_length_add_trailingRun P (S ++ List.replicate n P)
  rw [strip_append_replicate P S n h, List.length_append, List.length_replicate] at hlen
  omega

theorem strip_encodeText_length (hA : AlphabetOk A P) (T : Cells) :
    (strip P (encodeText A P T)).length = symbolCount T.length := by
  rw [strip_encodeText hA, List.length_map, groupsOf_textToBits_length]

theorem trailingRun_encodeText (hA : AlphabetOk A P) (T : Cells) :
    symbolCount T.length + trailingRun P (encodeText A P T) = paddedCount T.length := by
  rw [← strip_encodeText_length hA, strip_length_add_trailingRun, encodeText_length]

theorem encodedToBits_length {E : Cells} {B : BitString} (h : encodedToBits A P E = .ok B) :
    B.length = 6 * (strip P E).length := by
  unfold encodedToBits at h
  split at h
  · cases h
  · next gs hscan =>
    cases h
    rw [flatMap_length bits6 bits6_length, scan_length hscan]

theorem decodeText_length {E T : Cells} (h : decodeText A P E = .ok T) :
    T.length = 3 * (strip P E).length / 4 := by
  unfold decodeText at h
  split at h
  · cases h
  · next B hbits =>
    cases h
    rw [bitsToText_length, encodedToBits_length hbits]
    omega

/-- One symbol alone is stripped to itself and decodes to the empty text, as no symbol does. -/
theorem decodeText_single_symbol (hA : AlphabetOk A P) (g : Idx) :
    decodeText A P [sym A g] = .ok [] :=
  (decodeText_of_strip hA (strip_map_sym hA [g])).trans
    (congrArg _ (bitsToText_of_length_lt (by simp)))

end Codec

/-- Settles O44: the bits of the text come back, and the fill bits make no character. -/
theorem decodeInvertsEncode : Obligations.DecodeInvertsEncode :=
  fun _ _ T hA => decodeText_encodeText hA T

/-- Settles O45: the markers are what the padded length has more than the symbols; a single symbol
and no symbol at all decode to the empty text. -/
theorem codecLengths : Obligations.CodecLengths := by
  refine ⟨textToBits_length, fun A P B => ⟨bitsToSyms_length A B, bitsToEncoded_length A P B⟩,
    fun A P T hA => ⟨encodeText_length A P T, strip_encodeText_length hA T, ?_⟩,
    fun A P E B => encodedToBits_length, fun A P E T => decodeText_length, fun A P hA => ?_⟩
  · have hrun := trailingRun_encodeText hA T
    unfold symbolCount paddedCount at hrun
    exact ⟨fun h => by omega, fun h => by omega, fun h => by omega⟩
  · refine ⟨[sym A 0#6], [], [], by simp, decodeText_single_symbol hA 0#6, rfl, ?_⟩
    rw [show strip P [sym A 0#6] = _ from strip_map_sym hA [0#6]]
    exact List.cons_ne_nil _ _

/-! ### The rotation (41_rotation.md section 2) -/

section Rotation

variable {A : Cells} {P : Byte} {E R : Cells}

theorem add_32_add_32 (g : Idx) : g + 32#6 + 32#6 = g := by
  bv_omega

theorem rotCell_rotCell {i : Nat} {c d : Byte} (hA : AlphabetOk A P)
    (h : rotCell A P i c = .ok d) : rotCell A P i d = .ok c := by
  rcases rotCell_eq_ok_iff.mp h with ⟨rfl, rfl⟩ | ⟨-, g, hg, rfl⟩
  · exact h
  · rw [rotCell_sym hA, add_32_add_32, sym_of_idx hA.1 hA.2.1 hg]

/-- A scan that succeeds is undone by one whose cells undo its cells. -/
theorem scan_inverse {f f' : Nat → Byte → Except FnError Byte}
    (hinv : ∀ i c d, f i c = .ok d → f' i d = .ok c) {S T : Cells} {i : Nat}
    (h : scan f i S = .ok T) : scan f' i T = .ok S := by
  obtain ⟨hlen, hcells⟩ := (scan_eq_ok_iff S i T).mp h
  refine (scan_eq_ok_iff T i S).mpr ⟨hlen.symm, fun j d hd => ?_⟩
  have hj : j < S.length := hlen ▸ (List.getElem?_eq_some_iff.mp hd).1
  have hc : S[j]? = some S[j] := List.getElem?_eq_getElem hj
  obtain ⟨d', hd', hcell⟩ := hcells j _ hc
  obtain rfl : d = d' := Option.some_inj.mp (hd.symm.trans hd')
  exact ⟨_, hc, hinv _ _ _ hcell⟩

theorem rot_rot (hA : AlphabetOk A P) (h : rot A P E = .ok R) : rot A P R = .ok E :=
  scan_inverse (f := rotCell A P) (f' := rotCell A P) (fun _ _ _ => rotCell_rotCell hA) h

theorem add_32_ne (g : Idx) : g + 32#6 ≠ g := by
  bv_omega

theorem rot_cells_symbols_markers (h : rot A P E = .ok R) : ∀ c ∈ E, c ∈ A ∨ c = P := by
  rcases forall_good_or_firstBad (fun c => c ∈ A ∨ c = P) E with hall | ⟨i, c, hbad⟩
  · exact hall
  · rw [rot_of_firstBad hbad] at h
    cases h

/-- A rotation is the rotation of the stripped form, then as many markers as the operand has. -/
theorem rot_strip (hA : AlphabetOk A P) (h : rot A P E = .ok R) :
    rot A P (strip P E) = .ok (strip P R) ∧ trailingRun P R = trailingRun P E := by
  obtain ⟨hE, hlast⟩ := strip_spec P E
  have hcells : ∀ c ∈ strip P E, c ∈ A ∨ c = P := fun c hc =>
    rot_cells_symbols_markers h c (List.mem_of_mem_take hc)
  obtain ⟨S, hS⟩ := rot_ok_of_symbols_markers hcells
  have hSlast : S.getLast? ≠ some P := rot_getLast?_ne_pad hA hS hlast
  have hrot := rot_append_markers hS (trailingRun P E)
  rw [← hE, h, Except.ok.injEq] at hrot
  subst hrot
  exact ⟨by rw [strip_append_replicate P S _ hSlast, hS], trailingRun_append_replicate hSlast⟩

theorem rot_pad4 (h : rot A P E = .ok R) : rot A P (pad4 P E) = .ok (pad4 P R) := by
  rw [pad4, pad4, rot_length h]
  exact rot_append_markers h _

/-- Decryption looks at the stripped form of the rotated text only. -/
theorem decryptRotation_eq_of_strip {E' R' : Cells} (h : rot A P E = .ok R)
    (h' : rot A P E' = .ok R') (hstrip : strip P R = strip P R') :
    decryptRotation A P E = decryptRotation A P E' := by
  rw [decryptRotation_of_rot_ok h, decryptRotation_of_rot_ok h', decodeText_strip R R' hstrip]

/-- Decryption undoes encryption: `rot` undoes itself, then decoding undoes encoding. -/
theorem decryptRotation_encryptRotation {T C : Cells} (hA : AlphabetOk A P)
    (h : encryptRotation A P T = .ok C) : decryptRotation A P C = .ok T := by
  rw [decryptRotation_of_rot_ok (rot_rot hA h), decodeText_encodeText hA]

end Rotation

/-- Settles O48: adding 32 twice modulo 64 is adding nothing, adding it once is not. -/
theorem rotationIsItsOwnInverse : Obligations.RotationIsItsOwnInverse := by
  refine fun A P E R hA hR => ⟨rot_rot hA hR, fun i c hc hsym => ?_⟩
  obtain ⟨d, hd, hcell⟩ := rot_getElem? hR hc
  refine ⟨d, hd, ?_⟩
  rcases rotCell_eq_ok_iff.mp hcell with ⟨rfl, -⟩ | ⟨-, g, hg, rfl⟩
  · exact absurd hsym hA.2.2
  · refine ⟨sym_mem hA.1 _, fun heq => add_32_ne g ?_⟩
    rw [← sym_of_idx hA.1 hA.2.1 hg] at heq
    exact sym_injective hA.1 hA.2.1 heq

/-- Settles O49: markers pass through the rotation and nothing else becomes one. -/
theorem rotationCommutesWithPadding : Obligations.RotationCommutesWithPadding := by
  intro A P E R hA hR
  obtain ⟨hstrip, hrun⟩ := rot_strip hA hR
  exact ⟨rot_pad4 hR, hstrip, hrun,
    decryptRotation_eq_of_strip hR hstrip (strip_strip P R).symm,
    decryptRotation_eq_of_strip hR (rot_pad4 hstrip) (strip_pad4 (strip_spec P R).2).symm⟩

/-! ### Adding and subtracting a key (42_additive.md section 2) -/

section Additive

variable {A : Cells} {P : Byte} {op op' : Idx → Idx → Idx} {M S R : Cells}

/-- What `addsyms` and `subsyms` did when they succeeded: the key is non-empty and all symbols. -/
theorem combineSyms_eq_ok_iff : combineSyms A op M S = .ok R ↔
    S ≠ [] ∧ ∃ ks, scan (lookup A true) 0 S = .ok ks ∧ scan (combineCell A op ks) 0 M = .ok R := by
  by_cases hS : S = []
  · simp [hS]
  · cases hks : scan (lookup A true) 0 S with
    | error e => simp [combineSyms_bad_key hS hks]
    | ok ks => simp [combineSyms_of_key hS hks, hS]

theorem combineCell_inverse (hA : AlphabetOk A P) (hinv : ∀ a b, op' (op a b) b = a)
    {ks : List Idx} {i : Nat} {c d : Byte} (h : combineCell A op ks i c = .ok d) :
    combineCell A op' ks i d = .ok c := by
  unfold combineCell at h
  split at h
  · cases h
  · next g hg =>
    cases h
    rw [combineCell_sym hA.1 hA.2.1, hinv, sym_of_idx hA.1 hA.2.1 (lookup_eq_ok_iff.mp hg)]

theorem combineSyms_inverse (hA : AlphabetOk A P) (hinv : ∀ a b, op' (op a b) b = a)
    (h : combineSyms A op M S = .ok R) : combineSyms A op' R S = .ok M := by
  obtain ⟨hS, ks, hks, hscan⟩ := combineSyms_eq_ok_iff.mp h
  have hcells : ∀ i c d, combineCell A op ks i c = .ok d → combineCell A op' ks i d = .ok c :=
    fun _ _ _ => combineCell_inverse hA hinv
  exact combineSyms_eq_ok_iff.mpr ⟨hS, ks, hks, scan_inverse hcells hscan⟩

theorem combineSyms_length (h : combineSyms A op M S = .ok R) : R.length = M.length := by
  obtain ⟨-, ks, -, hscan⟩ := combineSyms_eq_ok_iff.mp h
  exact scan_length hscan

/-- A key of symbols of index 0 changes no index. -/
theorem addsyms_zero_key (hA : AlphabetOk A P) (hS : S ≠ []) (hM : ∀ c ∈ M, c ∈ A)
    (hzero : ∀ c ∈ S, A[0]? = some c) : addsyms A M S = .ok M := by
  have hkey : S = (List.replicate S.length 0#6).map (sym A) := by
    rw [List.map_replicate, List.eq_replicate_iff]
    refine ⟨rfl, fun c hc => ?_⟩
    exact Option.some_inj.mp ((hzero c hc).symm.trans (sym_eq_getElem hA.1 0#6))
  obtain ⟨gs, rfl⟩ := exists_eq_map_sym hA hM
  have hks : List.replicate S.length 0#6 ≠ [] := by simpa using hS
  rw [addsyms, hkey, combineSyms_map_sym hA.1 hA.2.1 _ gs _ hks]
  refine congrArg (fun hs => Except.ok (List.map (sym A) hs)) (List.ext_getElem? fun i => ?_)
  simp [List.getElem?_mapIdx]

variable {T K C : Cells}

theorem encryptAdditive_eq_ok (h : encryptAdditive A P T K = .ok C) :
    ∃ S, encodeKey A P K = .ok S ∧ addsyms A (strip P (encodeText A P T)) S = .ok C := by
  unfold encryptAdditive at h
  split at h
  · cases h
  · next S hkey => exact ⟨S, hkey, h⟩

theorem encryptAdditive_length (hA : AlphabetOk A P) (h : encryptAdditive A P T K = .ok C) :
    C.length = symbolCount T.length := by
  obtain ⟨S, -, hadd⟩ := encryptAdditive_eq_ok h
  rw [combineSyms_length hadd, strip_encodeText_length hA]

theorem decryptAdditive_length (hA : AlphabetOk A P) (h : decryptAdditive A P C K = .ok T) :
    T.length = 3 * C.length / 4 := by
  have hK : K ≠ [] := by
    rintro rfl
    rw [decryptAdditive_empty_key] at h
    cases h
  rcases forall_good_or_firstBad (· ∈ A) C with hC | ⟨i, c, hbad⟩
  · obtain ⟨gs, rfl⟩ := exists_eq_map_sym hA hC
    rw [decryptAdditive_of_indices hA hK (indices_map_sym hA.1 gs), Except.ok.injEq] at h
    rw [← h, bitsToText_groups_length, combinedIndices_length, List.length_map]
  · rw [decryptAdditive_of_firstBad hA hK hbad] at h
    cases h

/-- Decryption undoes encryption: the key is subtracted again, and decoding ignores that the
encoding has lost its markers. -/
theorem decryptAdditive_encryptAdditive (hA : AlphabetOk A P)
    (h : encryptAdditive A P T K = .ok C) : decryptAdditive A P C K = .ok T := by
  obtain ⟨S, hkey, hadd⟩ := encryptAdditive_eq_ok h
  have hsub : subsyms A C S = .ok (strip P (encodeText A P T)) :=
    combineSyms_inverse hA BitVec.add_sub_cancel hadd
  simp only [decryptAdditive, hkey, hsub]
  rw [decodeText_strip _ _ (strip_strip P _), decodeText_encodeText hA]

end Additive

/-- Settles O51: cell by cell, modulo 64. -/
theorem addAndSubtractAreInverse : Obligations.AddAndSubtractAreInverse :=
  fun _ _ _ _ _ hA =>
    ⟨combineSyms_inverse hA BitVec.add_sub_cancel, combineSyms_inverse hA BitVec.sub_add_cancel⟩

/-- Settles O52: the identity, and the two lengths. -/
theorem additiveIdentityAndLengths : Obligations.AdditiveIdentityAndLengths :=
  fun _ _ hA => ⟨fun _ _ hS hM hzero => addsyms_zero_key hA hS hM hzero,
    fun _ _ _ => encryptAdditive_length hA, fun _ _ _ => decryptAdditive_length hA⟩

end Sys2Proof.Proofs

/-! The laws on the machine (spec/41_rotation.md and 42_additive.md section 2, 30_encoding.md
section 2): data commands run one after another, with QTOM between them. -/

namespace Sys2Proof.Proofs

open Sys2Proof Sys2Proof.Machine Sys2Proof.Claims

/-! ### A result handed on to the next command (43_buffer_control.md R163) -/

/-- The state after a data command that commits `Q` and a `QTOM` that finds room for it. -/
def handedOn (s : State) (Q : Cells) : State := ((finished s Q).loadM Q).succeed

theorem exec_then_qtom {i : Instr} {s : State} {rd : Reads} {r : Except FnError Cells} {Q : Cells}
    (hexec : exec i s = .next (dataCommand rd r s)) (hcfg : s.cfgok = true)
    (hflag : operandFlagged rd s = false) (hr : r = .ok Q) (hfitQ : Q.length ≤ s.params.capQ)
    (hfitM : Q.length ≤ s.params.capM) :
    exec i s = .next (finished s Q) ∧ exec .qtom (finished s Q) = .next (handedOn s Q) :=
  ⟨exec_of_fits hexec hcfg hflag hr hfitQ, exec_qtom_of_fits (s := finished s Q) hcfg hfitM⟩

theorem length_le_paddedCount (n : Nat) : n ≤ paddedCount n := by
  unfold paddedCount; omega

theorem length_le_symbolCount (n : Nat) : n ≤ symbolCount n := by
  unfold symbolCount; omega

theorem symbolCount_le_paddedCount (n : Nat) : symbolCount n ≤ paddedCount n := by
  unfold symbolCount paddedCount; omega

/-- Settles O50: `DECROT` undoes on M what `ENCROT` left in Q. -/
theorem rotationRoundTripOnTheMachine : Obligations.RotationRoundTripOnTheMachine := by
  intro s hcfg hA hm hfitQ hfitM
  have hC := encryptRotation_eq_symbolsAt hA s.m
  have hlen := encryptRotation_length hC
  obtain ⟨henc, hqtom⟩ := exec_then_qtom (exec_encrot s) hcfg (not_operandFlagged_of_mperr hm) hC
    (hlen ▸ hfitQ) (hlen ▸ hfitM)
  have hdec := exec_of_fits (exec_decrot (handedOn s _)) hcfg (not_operandFlagged_of_mperr rfl)
    (decryptRotation_encryptRotation hA hC) ((length_le_paddedCount _).trans hfitQ)
  exact ⟨_, _, _, henc, hqtom, hdec, rfl, rfl⟩

/-- Settles O53: `DECADD` undoes on M what `ENCADD` left in Q; K is still there. -/
theorem additiveRoundTripOnTheMachine : Obligations.AdditiveRoundTripOnTheMachine := by
  intro s hcfg hA hm hk hK hfitQ hfitM
  have hC := encryptAdditive_eq_combined hA s.m hK
  have hlen := encryptAdditive_length hA hC
  obtain ⟨henc, hqtom⟩ := exec_then_qtom (exec_encadd s) hcfg
    (not_operandFlagged_of_mperr_kperr hm hk) hC (hlen ▸ hfitQ) (hlen ▸ hfitM)
  have hdec := exec_of_fits (exec_decadd (handedOn s _)) hcfg
    (not_operandFlagged_of_mperr_kperr rfl hk)
    (decryptAdditive_encryptAdditive hA hC) ((length_le_symbolCount _).trans hfitQ)
  exact ⟨_, _, _, henc, hqtom, hdec, rfl, rfl⟩

/-- Settles O54: the last stage finds in M what the composite function computes on the way. -/
theorem stagesEqualTheComposite : Obligations.StagesEqualTheComposite := by
  intro s hcfg hA hm hbitsQ hbitsM hfitQ hfitM
  have hflag := not_operandFlagged_of_mperr hm
  have hlen := encodeText_length s.alpha s.pad s.m
  have henc := exec_of_fits (exec_enc s) hcfg hflag rfl (hlen ▸ hfitQ)
  constructor
  · have hbits : (toCells (textToBits s.m)).length = 8 * s.m.length := by simp
    obtain ⟨ht2b, hqtom⟩ := exec_then_qtom (exec_t2b s) hcfg hflag rfl (hbits ▸ hbitsQ)
      (hbits ▸ hbitsM)
    have hr : (fromCells (toCells (textToBits s.m))).map (bitsToEncoded s.alpha s.pad) =
        .ok (encodeText s.alpha s.pad s.m) := by
      rw [fromCells_toCells]; rfl
    have hb2e := exec_of_fits (exec_b2e (handedOn s _)) hcfg (not_operandFlagged_of_mperr rfl) hr
      (hlen ▸ hfitQ)
    exact ⟨_, _, _, _, ht2b, hqtom, hb2e, henc, rfl, rfl, rfl⟩
  · obtain ⟨-, hqtom⟩ := exec_then_qtom (exec_enc s) hcfg hflag rfl (hlen ▸ hfitQ) (hlen ▸ hfitM)
    have hC := encryptRotation_eq_symbolsAt hA s.m
    have hfitC := (encryptRotation_length hC).trans_le hfitQ
    have hrots := exec_of_fits (exec_rots (handedOn s _)) hcfg (not_operandFlagged_of_mperr rfl) hC
      hfitC
    exact ⟨_, _, _, _, henc, hqtom, hrots, exec_of_fits (exec_encrot s) hcfg hflag hC hfitC,
      rfl, rfl, rfl⟩

/-! ### A padded ciphertext of the Keyed Additive Cipher (42_additive.md section 2) -/

/-- The first cell that fails is the first marker, when the cells before the markers are good. -/
theorem firstBad_append_markers {S : Cells} {P : Byte} {good : Byte → Prop} {n : Nat}
    (hS : ∀ c ∈ S, good c) (hP : ¬ good P) (hn : n ≠ 0) :
    FirstBad (S ++ List.replicate n P) good S.length P := by
  refine ⟨?_, hP, fun d hd => hS d ?_⟩
  · rw [List.getElem?_append_right (le_refl _), Nat.sub_self, List.getElem?_replicate,
      if_pos (Nat.pos_of_ne_zero hn)]
  · rwa [List.take_left' rfl] at hd

theorem pad4_length_of_symbolCount {S : Cells} {n : Nat} (P : Byte)
    (h : S.length = symbolCount n) : (pad4 P S).length = paddedCount n := by
  rw [pad4_length, h, symbolCount, paddedCount]
  omega

/-- A text whose length is no multiple of 3 makes a ciphertext that `PAD4` extends. -/
theorem fill_ne_zero_of_symbolCount {n : Nat} (h : n % 3 ≠ 0) :
    (4 - symbolCount n % 4) % 4 ≠ 0 := by
  unfold symbolCount; omega

/-- With a non-empty key there is a ciphertext, and it is symbols. -/
theorem encryptAdditive_symbols {A K : Cells} {P : Byte} (hA : AlphabetOk A P) (T : Cells)
    (hK : K ≠ []) : ∃ C, encryptAdditive A P T K = .ok C ∧ ∀ c ∈ C, c ∈ A :=
  ⟨_, encryptAdditive_eq_combined hA T hK, List.forall_mem_map.mpr fun g _ => sym_mem hA.1 g⟩

theorem strip_pad4_of_symbols {A S : Cells} {P : Byte} (hA : AlphabetOk A P)
    (hS : ∀ c ∈ S, c ∈ A) : strip P (pad4 P S) = S := by
  obtain ⟨gs, rfl⟩ := exists_eq_map_sym hA hS
  exact strip_pad4 (map_sym_getLast?_ne hA gs)

/-- Settles O55: the ciphertext is symbols, so the first cell `DECADD` rejects is a marker. -/
theorem repaddedAdditiveCiphertext : Obligations.RepaddedAdditiveCiphertext := by
  intro s hcfg hA hm hk hK hfitQ hfitM
  obtain ⟨C, hC, hsym⟩ := encryptAdditive_symbols hA s.m hK
  have hlen := encryptAdditive_length hA hC
  have hpadLen := pad4_length_of_symbolCount s.pad hlen
  have hshort := hlen.trans_le (symbolCount_le_paddedCount _)
  obtain ⟨henc, hqtom⟩ := exec_then_qtom (exec_encadd s) hcfg
    (not_operandFlagged_of_mperr_kperr hm hk) hC (hshort.trans hfitQ) (hshort.trans hfitM)
  obtain ⟨hpad, hqtom'⟩ := exec_then_qtom (exec_pad4 (handedOn s C)) hcfg
    (not_operandFlagged_of_mperr rfl) rfl (hpadLen.trans_le hfitQ) (hpadLen.trans_le hfitM)
  have hstrip := exec_of_fits (exec_strip (handedOn (handedOn s C) (pad4 s.pad C))) hcfg
    (not_operandFlagged_of_mperr rfl) (congrArg Except.ok (strip_pad4_of_symbols hA hsym))
    (hshort.trans hfitQ)
  refine ⟨_, _, _, _, _, henc, hqtom, hpad, hqtom', hstrip, rfl, hpadLen, fun hmod => ?_⟩
  have hbad := firstBad_append_markers hsym hA.2.2 (hlen ▸ fill_ne_zero_of_symbolCount hmod)
  rw [← hlen]
  exact exec_of_invsym (exec_decadd (handedOn (handedOn s C) (pad4 s.pad C))) hcfg
    (not_operandFlagged_of_mperr_kperr rfl hk) (decryptAdditive_of_firstBad hA hK hbad)

end Sys2Proof.Proofs

/-! The regrouping as a packed operation (spec/40_bit_codec.md section 2): three characters and four
indices hold the same 24 bits, so each value of the one is read off two neighbours of the other. -/

namespace Sys2Proof.Proofs

open Sys2Proof Sys2Proof.Machine Sys2Proof.Claims

/-- A word whose high `a` bits are the low ones of `hi` and whose low `b` bits are the high ones of
`lo`. -/
theorem toNat_of_packed {w u v a b : Nat} {x : BitVec w} {hi : BitVec u} {lo : BitVec v}
    (hw : a + b = w) (hb : b ≤ v) (hhi : ∀ t, t < a → x.getLsbD (b + t) = hi.getLsbD t)
    (hlo : ∀ t, t < b → x.getLsbD t = lo.getLsbD (t + (v - b))) :
    x.toNat = hi.toNat % 2 ^ a * 2 ^ b + lo.toNat / 2 ^ (v - b) := by
  have hlt : lo.toNat / 2 ^ (v - b) < 2 ^ b := by
    rw [Nat.div_lt_iff_lt_mul (Nat.two_pow_pos _), ← Nat.pow_add, Nat.add_sub_cancel' hb]
    exact lo.isLt
  refine Nat.eq_of_testBit_eq fun t => ?_
  simp only [Nat.mul_comm (_ % _), Nat.testBit_two_pow_mul_add _ hlt, Nat.testBit_div_two_pow,
    Nat.testBit_mod_two_pow, BitVec.testBit_toNat]
  split
  · next ht => exact hlo t ht
  · next ht =>
    obtain ⟨r, rfl⟩ := Nat.exists_eq_add_of_le (Nat.not_lt.mp ht)
    by_cases hr : r < a
    · simp [hr, hhi r hr]
    · simp [hr, BitVec.getLsbD_of_ge x (b + r) (by omega)]

/-! ### From characters to indices -/

/-- The character of a text at a place, zero beyond the end as its bits are. -/
def charAt (T : Cells) (j : Nat) : Byte := T[j]?.getD 0#8

theorem textBit_eq_charAt (T : Cells) (p : Nat) :
    textBit T p = (charAt T (p / 8)).getLsbD (7 - p % 8) := by
  rw [textBit, charAt]
  cases T[p / 8]? with
  | none => exact (BitVec.getLsbD_zero).symm
  | some c => rfl

/-- Group `j` is the last `a` bits of the character `ch` and the first `b` bits of the character
`cl`. -/
theorem group_toNat {T : Cells} {j : Nat} {g : Idx} (h : GroupOf T j g) (a b ch cl : Nat)
    (hab : a + b = 6) (hch : 0 < a → 6 * j + a = 8 * ch + 8) (hcl : 0 < b → 6 * j + a = 8 * cl) :
    g.toNat = (charAt T ch).toNat % 2 ^ a * 2 ^ b + (charAt T cl).toNat / 2 ^ (8 - b) := by
  have hbit : ∀ t c r, t < 6 → r < 8 → 6 * j + (5 - t) = 8 * c + (7 - r) →
      g.getLsbD t = (charAt T c).getLsbD r := by
    intro t c r ht hr hp
    have hg := h (5 - t) (by omega)
    rwa [textBit_eq_charAt, hp, show (8 * c + (7 - r)) / 8 = c by omega,
      show 7 - (8 * c + (7 - r)) % 8 = r by omega, show 5 - (5 - t) = t by omega] at hg
  exact toNat_of_packed hab (by omega)
    (fun t ht => hbit _ ch t (by omega) (by omega) (by omega))
    (fun t ht => hbit t cl _ (by omega) (by omega) (by omega))

/-- The indices of the groups of a text. -/
theorem groups_getElem?_toNat (T : Cells) {j : Nat} (hj : j < symbolCount T.length)
    (a b ch cl : Nat) (hab : a + b = 6) (hch : 0 < a → 6 * j + a = 8 * ch + 8)
    (hcl : 0 < b → 6 * j + a = 8 * cl) :
    (groupsOf (textToBits T))[j]?.map BitVec.toNat =
      some ((charAt T ch).toNat % 2 ^ a * 2 ^ b + (charAt T cl).toNat / 2 ^ (8 - b)) := by
  have hget := List.getElem?_eq_getElem (groupsOf_textToBits_length T ▸ hj)
  rw [hget, Option.map_some, group_toNat (groupOf_of_groupsOf hget) a b ch cl hab hch hcl]

section Lanes

variable (T : Cells) (i : Nat)

theorem groups_lane0 (hj : 4 * i < symbolCount T.length) :
    (groupsOf (textToBits T))[4 * i]?.map BitVec.toNat = some ((charAt T (3 * i)).toNat / 4) := by
  simpa [Nat.mod_one] using groups_getElem?_toNat T hj 0 6 0 (3 * i) rfl (by omega) (by omega)

theorem groups_lane1 (hj : 4 * i + 1 < symbolCount T.length) :
    (groupsOf (textToBits T))[4 * i + 1]?.map BitVec.toNat =
      some ((charAt T (3 * i)).toNat % 4 * 16 + (charAt T (3 * i + 1)).toNat / 16) :=
  groups_getElem?_toNat T hj 2 4 (3 * i) (3 * i + 1) rfl (by omega) (by omega)

theorem groups_lane2 (hj : 4 * i + 2 < symbolCount T.length) :
    (groupsOf (textToBits T))[4 * i + 2]?.map BitVec.toNat =
      some ((charAt T (3 * i + 1)).toNat % 16 * 4 + (charAt T (3 * i + 2)).toNat / 64) :=
  groups_getElem?_toNat T hj 4 2 (3 * i + 1) (3 * i + 2) rfl (by omega) (by omega)

theorem groups_lane3 (hj : 4 * i + 3 < symbolCount T.length) :
    (groupsOf (textToBits T))[4 * i + 3]?.map BitVec.toNat =
      some ((charAt T (3 * i + 2)).toNat % 64) := by
  have h := groups_getElem?_toNat T hj 6 0 (3 * i + 2) 0 rfl (by omega) (by omega)
  rwa [Nat.div_eq_of_lt (charAt T 0).isLt, Nat.add_zero, Nat.pow_zero, Nat.mul_one] at h

end Lanes

theorem charAt_of_getElem? {T : Cells} {j : Nat} {c : Byte} (h : T[j]? = some c) :
    charAt T j = c := by
  rw [charAt, h, Option.getD_some]

theorem charAt_of_length_le {T : Cells} {j : Nat} (h : T.length ≤ j) : charAt T j = 0#8 := by
  rw [charAt, List.getElem?_eq_none h, Option.getD_none]

/-- Settles O46: the lanes of the groups of the text; a character that is missing counts as zero. -/
theorem encodingLanes : Obligations.EncodingLanes := by
  intro A P T hA
  have hcount := groupsOf_textToBits_length T
  refine ⟨groupsOf (textToBits T), (4 - symbolCount T.length % 4) % 4, ?encoding,
    fun i b0 b1 b2 h0 h1 h2 => ?three, fun hmod => ?none, fun i b0 hlen h0 => ?one,
    fun i b0 b1 hlen h0 h1 => ?two⟩
  case encoding => rw [← hcount]; exact bitsToEncoded_eq hA.1 P _
  all_goals have hdef : symbolCount T.length = (4 * T.length + 2) / 3 := rfl
  case none => omega
  case three =>
    have hlt := (List.getElem?_eq_some_iff.mp h2).1
    rw [groups_lane0, groups_lane1, groups_lane2, groups_lane3, charAt_of_getElem? h0,
      charAt_of_getElem? h1, charAt_of_getElem? h2]
    · exact ⟨rfl, rfl, rfl, rfl⟩
    all_goals omega
  case one =>
    refine ⟨by omega, by omega, ?_⟩
    rw [groups_lane0, groups_lane1, charAt_of_getElem? h0, charAt_of_length_le (by omega)]
    · exact ⟨rfl, rfl⟩
    all_goals omega
  case two =>
    refine ⟨by omega, by omega, ?_⟩
    rw [groups_lane0, groups_lane1, groups_lane2, charAt_of_getElem? h0, charAt_of_getElem? h1,
      charAt_of_length_le (by omega)]
    · exact ⟨rfl, rfl, rfl⟩
    all_goals omega

/-! ### From indices to characters -/

theorem groupBit_of_getElem? {gs : List Idx} {j : Nat} {g : Idx} (h : gs[j]? = some g) {r : Nat}
    (hr : r < 6) : groupBit gs (6 * j + (5 - r)) = g.getLsbD r := by
  rw [groupBit, show (6 * j + (5 - r)) / 6 = j by omega, h]
  simp only [show 5 - (6 * j + (5 - r)) % 6 = r by omega]

/-- Character `j` of the regrouped text is the last `a` bits of the index `ghi` and the first `b`
bits of the index `glo`. -/
theorem text_getElem?_toNat {gs : List Idx} {T : Cells} (hT : TextOfGroups gs T) {j : Nat}
    {ghi glo : Idx} (a b jhi jlo : Nat) (hhi : gs[jhi]? = some ghi) (hlo : gs[jlo]? = some glo)
    (hab : a + b = 8) (ha : a ≤ 6) (hb : b ≤ 6) (hjhi : 8 * j + a = 6 * jhi + 6)
    (hjlo : 8 * j + a = 6 * jlo) :
    T[j]?.map BitVec.toNat = some (ghi.toNat % 2 ^ a * 2 ^ b + glo.toNat / 2 ^ (6 - b)) := by
  obtain ⟨hlen, hbits⟩ := hT
  have hjl := (List.getElem?_eq_some_iff.mp hlo).1
  have hj : j < T.length := by omega
  have hget := List.getElem?_eq_getElem hj
  have hbit : ∀ t jg g r, t < 8 → r < 6 → gs[jg]? = some g → 8 * j + (7 - t) = 6 * jg + (5 - r) →
      T[j].getLsbD t = g.getLsbD r := by
    intro t jg g r ht hr hg hp
    rw [← groupBit_of_getElem? hg hr, ← hp, ← hbits _ (by omega), textBit_eq_charAt,
      show (8 * j + (7 - t)) / 8 = j by omega, charAt_of_getElem? hget,
      show 7 - (8 * j + (7 - t)) % 8 = t by omega]
  rw [hget, Option.map_some, toNat_of_packed hab hb
    (fun t ht => hbit _ jhi ghi t (by omega) (by omega) hhi (by omega))
    (fun t ht => hbit t jlo glo _ (by omega) (by omega) hlo (by omega))]

/-- Settles O47: each character straddles two indices. -/
theorem decodingLanes : Obligations.DecodingLanes := by
  intro A P E S n gs hA hmark hidx
  have hT := textOfGroups_bitsToText gs
  refine ⟨_, decodeText_of_indices hA hmark hidx, hT.1, fun i g0 g1 h0 h1 => ⟨?_, fun g2 h2 =>
    ⟨?_, fun g3 h3 => ?_⟩⟩⟩
  · have h := text_getElem?_toNat hT (j := 3 * i) 6 2 (4 * i) (4 * i + 1) h0 h1 rfl (by omega)
      (by omega) (by omega) (by omega)
    rwa [Nat.mod_eq_of_lt g0.isLt] at h
  · exact text_getElem?_toNat hT 4 4 (4 * i + 1) (4 * i + 2) h1 h2 rfl (by omega) (by omega)
      (by omega) (by omega)
  · have h := text_getElem?_toNat hT (j := 3 * i + 2) 2 6 (4 * i + 2) (4 * i + 3) h2 h3 rfl
      (by omega) (by omega) (by omega) (by omega)
    rwa [Nat.sub_self, Nat.pow_zero, Nat.div_one] at h

end Sys2Proof.Proofs
